-- ==== Sys2Proof/Word.lean ====
section
/-!
DEFINITION. The word types of the block (00_scope.md R10, R13) and nothing else.
-/

namespace Sys2Proof

/-- A 32-bit word: a command, an i32 or a u32 register (00_scope.md R10). -/
abbrev W32 := BitVec 32

/-- The datum of one number of type F under NUM_B64: the 64 bits of an IEEE 754 binary64
(00_scope.md R13; log 1). -/
abbrev B64 := BitVec 64

end Sys2Proof
end

