-- ==== Sys2Proof/Syntax.lean ====
section
/-!
DEFINITION. The syntax of a command: one constructor per row of spec/opcode_table.json
(30_encoding.md R83), the operand being the ARG field as it stands in the word (R82), and the names
that legal operands stand for (R81).
-/

namespace Sys2Proof

/-- A channel, the operand of FMT1 commands (30_encoding.md R81). -/
inductive Channel where
  | ch0 | ch1
  deriving DecidableEq, Repr

/-- A spectrum, the operand of FMT2 commands: 0 = cross(ch0, ch1), 1 = auto(ch0), 2 = auto(ch1)
(30_encoding.md R81). -/
inductive Spectrum where
  | cross | auto0 | auto1
  deriving DecidableEq, Repr

/-- The nine commands (30_encoding.md R83). `arg` is the ARG field, bits 15:8 of the word; which
values are legal is `Instr.wellFormed`. -/
inductive Instr where
  | nop
  | config
  | process
  | win (arg : BitVec 8)
  | fft (arg : BitVec 8)
  | conj (arg : BitVec 8)
  | cmul (arg : BitVec 8)
  | smooth (arg : BitVec 8)
  | tick
  deriving DecidableEq, Repr

end Sys2Proof
end

