-- ==== Sys2Proof/WellFormed.lean ====
section
/-!
DEFINITION. Which commands are legal: the column "legal ARG" of 30_encoding.md R81.
-/

namespace Sys2Proof

/-- The command's operand is legal for its format: a channel 0 or 1 under FMT1, a spectrum 0, 1 or 2
under FMT2; FMT0 has no operand (30_encoding.md R81). -/
def Instr.wellFormed : Instr → Bool
  | .nop => true
  | .config => true
  | .process => true
  | .win arg => decide (arg.toNat < 2)
  | .fft arg => decide (arg.toNat < 2)
  | .conj arg => decide (arg.toNat < 2)
  | .cmul arg => decide (arg.toNat < 3)
  | .smooth arg => decide (arg.toNat < 3)
  | .tick => true

end Sys2Proof
end

