-- ==== Sys2Proof/Decode.lean ====
section
/-!
DEFINITION. The command word: its fields, the decoder (total, refusing by name), and the encoder
(30_encoding.md R80 to R84, R89 step 1).
-/

namespace Sys2Proof

/-- Why a word is illegal (30_encoding.md R84). All three end with IllegalCommand (R89). -/
inductive DecodeError where
  | zeroFieldNotZero
  | unknownOpcode
  | illegalArgument
  deriving DecidableEq, Repr

/-- OP = w[7:0] (30_encoding.md R82). -/
def opField (w : W32) : BitVec 8 := w.extractLsb' 0 8

/-- ARG = w[15:8] (30_encoding.md R82). -/
def argField (w : W32) : BitVec 8 := w.extractLsb' 8 8

/-- ZERO = w[31:16] (30_encoding.md R82). -/
def zeroField (w : W32) : BitVec 16 := w.extractLsb' 16 16

/-- Format FMT0: no operand, ARG must be 0 (30_encoding.md R81). -/
def decodeFmt0 (arg : BitVec 8) (i : Instr) : Except DecodeError Instr :=
  if arg = 0#8 then .ok i else .error .illegalArgument

/-- Format FMT1: ARG is a channel, 0 or 1 (30_encoding.md R81). -/
def decodeFmt1 (arg : BitVec 8) (mk : BitVec 8 → Instr) : Except DecodeError Instr :=
  if arg.toNat < 2 then .ok (mk arg) else .error .illegalArgument

/-- Format FMT2: ARG is a spectrum, 0, 1 or 2 (30_encoding.md R81). -/
def decodeFmt2 (arg : BitVec 8) (mk : BitVec 8 → Instr) : Except DecodeError Instr :=
  if arg.toNat < 3 then .ok (mk arg) else .error .illegalArgument

/-- The opcode map (30_encoding.md R83). -/
def decodeOp (op arg : BitVec 8) : Except DecodeError Instr :=
  if op = 0x00#8 then decodeFmt0 arg .nop
  else if op = 0x01#8 then decodeFmt0 arg .config
  else if op = 0x02#8 then decodeFmt0 arg .process
  else if op = 0x10#8 then decodeFmt1 arg .win
  else if op = 0x11#8 then decodeFmt1 arg .fft
  else if op = 0x12#8 then decodeFmt1 arg .conj
  else if op = 0x13#8 then decodeFmt2 arg .cmul
  else if op = 0x14#8 then decodeFmt2 arg .smooth
  else if op = 0x15#8 then decodeFmt0 arg .tick
  else .error .unknownOpcode

/-- Decoding of a command word, in the order of 30_encoding.md R89 step 1. -/
def decode (w : W32) : Except DecodeError Instr :=
  if zeroField w ≠ 0#16 then .error .zeroFieldNotZero
  else decodeOp (opField w) (argField w)

/-- The opcode of a command (30_encoding.md R83). -/
def Instr.opcode : Instr → BitVec 8
  | .nop => 0x00#8
  | .config => 0x01#8
  | .process => 0x02#8
  | .win _ => 0x10#8
  | .fft _ => 0x11#8
  | .conj _ => 0x12#8
  | .cmul _ => 0x13#8
  | .smooth _ => 0x14#8
  | .tick => 0x15#8

/-- The ARG field of a command: its operand, 0 where it has none (30_encoding.md R81). -/
def Instr.argument : Instr → BitVec 8
  | .nop => 0#8
  | .config => 0#8
  | .process => 0#8
  | .win arg => arg
  | .fft arg => arg
  | .conj arg => arg
  | .cmul arg => arg
  | .smooth arg => arg
  | .tick => 0#8

/-- The command word of an instruction: ZERO, ARG, OP from the top down (30_encoding.md R81). -/
def encode (i : Instr) : W32 := (0#16 ++ i.argument ++ i.opcode : BitVec (16 + 8 + 8))

/-- The instruction the decoder reads from the bits of an opcode-table row; a command is one 32-bit
word, written whole (30_encoding.md R80), so bits at or above 32 belong to no command. -/
def decodeTableWord (nbits w : Nat) : Option Instr :=
  if w % 2 ^ nbits < 2 ^ 32 then (decode (BitVec.ofNat 32 (w % 2 ^ nbits))).toOption else none

end Sys2Proof
end

