-- ==== Sys2Proof/Config.lean ====
section
/-!
DEFINITION. What the spec fixes once (00_scope.md R7), the defaults of its open parameters (R8), and
the free values: constants without a body, of which no proof can know the value.
-/

namespace Sys2Proof.Config

/-- NCH, the channel count the input must state (00_scope.md R7). -/
def channelCount : Nat := 2

/-- DECIM: an output is emitted at every tenth call (00_scope.md R7). -/
def decim : Nat := 10

/-- LOG2_NFFT_MAX: open in the spec, 1 to 30; its default is 16 (00_scope.md R8; log 8,
DESIGN CHOICE, unsafe). -/
def log2NfftMax : Nat := 16

/-- Which operation of NUM_B64 delivers a NaN; the free bits of the NaN may depend on it. -/
inductive NanSource where
  | add | sub | mul | div | sqrt | exp | cos | sin
  deriving DecidableEq, Repr

/-- Sign and payload of a NaN that an operation delivers on the given operands (an operation of one
operand gives it twice). IEEE 754 leaves them open: FREE VALUE (log 3, safe). -/
opaque nanBits : NanSource → B64 → B64 → BitVec 52

/-- How far the implementation's exp, cos and sin are from correctly rounded, in last places: 4 is
not at all, 0 is four below, 8 is four above. They are not required to be correctly rounded
(00_scope.md R13): FREE VALUES (log 4, 5, safe). -/
opaque expLastPlaces : B64 → Fin 9
opaque cosLastPlaces : B64 → Fin 9
opaque sinLastPlaces : B64 → Fin 9

/-- The implementation's cos and sin of an argument beyond 8 in magnitude, which no unit computes:
FREE VALUES in [-1, 1] (log 5, safe). -/
opaque cosFar : B64 → B64
opaque sinFar : B64 → B64

/-- EPS_FFT and EPS_WIN, the tolerances of the laws of `fft` and `winGen` outside NUM_REAL: open
(00_scope.md R8, 93_implementation_defined.md U9): FREE VALUES (log 22, safe). -/
opaque epsFft : ℚ≥0
opaque epsWin : ℚ≥0

/-- What a host read of an element of IN0 or IN1 returns when nothing has written it since the
reset with this epoch: FREE VALUE of (epoch, channel, index) (93_implementation_defined.md U6;
log 10, safe). -/
opaque unwrittenSample : Nat → Nat → Nat → B64

end Sys2Proof.Config
end

