-- ==== Sys2Proof/Machine/Num.lean ====
section
/-!
DEFINITION. The numerics record NUM (00_scope.md R12) and the open parameters of the block
(00_scope.md R8), as arguments of the model. Every unit is written over them; the machine of
Machine/Dispatch.lean runs them at one instance (Machine/Params.lean).
-/

namespace Sys2Proof.Machine

/-- The numerics record NUM: the constants, the rounded operations and the tests on numbers of
type F (00_scope.md R12). The machine assumes nothing of it but that each operation is a total
function. -/
structure Num (F : Type) where
  zero : F
  one : F
  two : F
  half : F
  eighth : F
  pi : F
  ofInt : Int → F
  add : F → F → F
  sub : F → F → F
  mul : F → F → F
  div : F → F → F
  neg : F → F
  exp : F → F
  cos : F → F
  sin : F → F
  sqrt : F → F
  isZero : F → Bool
  le0 : F → Bool
  isFinite : F → Bool

/-- The parameters the source leaves to the implementation (00_scope.md R8). `winGen b N` is the
list of window coefficients, `fft N x` the list of the 2N spectrum elements; `epsFft` and `epsWin`
are the tolerances of their laws (93_implementation_defined.md U9; Machine/NumReal.lean), which no
rule of state change reads. -/
structure Params (F : Type) where
  num : Num F
  winGen : Nat → Nat → List F
  fft : Nat → List F → List F
  log2NfftMax : Nat
  size_legal : 1 ≤ log2NfftMax ∧ log2NfftMax ≤ 30
  epsFft : ℚ≥0
  epsWin : ℚ≥0

/-- IN_CAP, the number of elements of each input bank (00_scope.md R8). -/
def Params.inCap {F : Type} (p : Params F) : Nat := 2 ^ p.log2NfftMax

end Sys2Proof.Machine
end

