-- ==== Sys2Proof/Machine/Float.lean ====
section
/-!
DEFINITION. NUM_B64 (00_scope.md R13, 93_implementation_defined.md U2): IEEE 754 binary64 on its
64-bit datum, round to nearest with ties to even, no traps (log 1, 2). Every finite datum is a whole
number of units of 2^-1074, its magnitude `f64Mag`; an operation computes its result exactly in
these units and rounds it once. NaN results carry free bits (log 3). exp, cos and sin stand in Machine/Elementary.lean.
-/

namespace Sys2Proof.Machine

open Sys2Proof.Config (NanSource)

/-! ## The datum -/

/-- The sign bit. -/
def f64Sign (x : B64) : Bool := x.msb

/-- The biased exponent field, bits 62:52. -/
def f64Exponent (x : B64) : Nat := x.toNat / 2 ^ 52 % 2 ^ 11

/-- The fraction field, bits 51:0. -/
def f64Fraction (x : B64) : Nat := x.toNat % 2 ^ 52

/-- Neither a NaN nor an infinity (00_scope.md R12 `isFinite`). -/
def f64IsFinite (x : B64) : Bool := decide (f64Exponent x ≠ 2047)

def f64IsNaN (x : B64) : Bool := decide (f64Exponent x = 2047) && decide (f64Fraction x ≠ 0)

def f64IsInf (x : B64) : Bool := decide (f64Exponent x = 2047) && decide (f64Fraction x = 0)

/-- +0 or -0 (00_scope.md R13). -/
def f64IsZero (x : B64) : Bool := decide (x.toNat % 2 ^ 63 = 0)

/-- How many units make 1: 2^1074. Sealed, so that no proof writes the number out. -/
@[irreducible] def f64Scale : Nat := 2 ^ 1074

/-- The magnitude of a finite datum in units of 2^-1074. -/
def f64Mag (x : B64) : Nat :=
  if f64Exponent x = 0 then f64Fraction x
  else (2 ^ 52 + f64Fraction x) * 2 ^ (f64Exponent x - 1)

/-- The value of a finite datum in units of 2^-1074. -/
def f64Units (x : B64) : Int := if f64Sign x then -(f64Mag x : Int) else (f64Mag x : Int)

/-! ## Building results -/

/-- The datum with this sign whose other 63 bits are `magBits`. -/
def f64Make (sign : Bool) (magBits : Nat) : B64 :=
  BitVec.ofNat 64 ((if sign then 2 ^ 63 else 0) + magBits % 2 ^ 63)

def f64Inf (sign : Bool) : B64 := f64Make sign (2047 * 2 ^ 52)

def f64Zero (sign : Bool) : B64 := f64Make sign 0

/-- A quiet NaN whose sign and payload are free (log 3). -/
def f64NaN (src : NanSource) (a b : B64) : B64 :=
  ((Config.nanBits src a b).extractLsb' 51 1 ++ 0xFFF#12 ++ (Config.nanBits src a b).extractLsb' 0 51
    : BitVec (1 + 12 + 51))

/-- The 63 magnitude bits of a result of `k` units in the last place, the last place being worth
2^q units: k < 2^52 only when q = 0, and k = 2^53 carries into the exponent. At or above the
largest exponent the result is an infinity. -/
def f64Pack (sign : Bool) (q k : Nat) : B64 :=
  if q * 2 ^ 52 + k < 2047 * 2 ^ 52 then f64Make sign (q * 2 ^ 52 + k) else f64Inf sign

/-- How many binary places of the last place lie above the unit, for a result whose whole part is
`t` units: 53 significant bits, or all of them when subnormal. -/
def f64Place (t : Nat) : Nat := Nat.log2 t - 52

/-- n / d units rounded to nearest, ties to even (d > 0). -/
def f64Round (sign : Bool) (n d : Nat) : B64 :=
  let q := f64Place (n / d)
  let ulp := d * 2 ^ q
  let k := n / ulp
  let r := n % ulp
  let up := decide (2 * r > ulp) || (decide (2 * r = ulp) && decide (k % 2 = 1))
  f64Pack sign q (if up then k + 1 else k)

/-- Integer square root by binary digits: the largest s with s * s ≤ x, given that the `i` low
digits are still to be found and `s` holds the others. -/
def isqrtDigits (x : Nat) : Nat → Nat → Nat
  | 0, s => s
  | i + 1, s => isqrtDigits x i (if (s + 2 ^ i) * (s + 2 ^ i) ≤ x then s + 2 ^ i else s)

/-- The integer square root. -/
def isqrt (x : Nat) : Nat := isqrtDigits x (Nat.log2 x / 2 + 1) 0

/-- The square root of x units rounded to nearest, ties to even. -/
def f64RoundSqrt (x : Nat) : B64 :=
  let s := isqrt x
  let q := f64Place s
  let k := s / 2 ^ q
  let mid := (2 * k + 1) * 2 ^ q
  let up := decide (4 * x > mid * mid) || (decide (4 * x = mid * mid) && decide (k % 2 = 1))
  f64Pack false q (if up then k + 1 else k)

/-! ## The operations of NUM -/

/-- `ofInt`: an integer rounded to the nearest datum (00_scope.md R12). -/
def f64OfInt (n : Int) : B64 := f64Round (decide (n < 0)) (n.natAbs * f64Scale) 1

/-- `neg` flips the sign bit (00_scope.md R13). -/
def f64Neg (a : B64) : B64 := a ^^^ 0x8000000000000000#64

/-- Sum of two finite data: exact, then rounded; an exact zero is -0 only when both are negative. -/
def f64AddFinite (a b : B64) : B64 :=
  let u := f64Units a + f64Units b
  if u = 0 then f64Zero (f64Sign a && f64Sign b) else f64Round (decide (u < 0)) u.natAbs 1

/-- Sum of two data of which neither is a NaN. -/
def f64AddNumber (src : NanSource) (a b : B64) : B64 :=
  if f64IsInf a then (if f64IsInf b && (f64Sign a != f64Sign b) then f64NaN src a b else a)
  else if f64IsInf b then b
  else f64AddFinite a b

def f64Add (a b : B64) : B64 :=
  if f64IsNaN a || f64IsNaN b then f64NaN .add a b else f64AddNumber .add a b

def f64Sub (a b : B64) : B64 :=
  if f64IsNaN a || f64IsNaN b then f64NaN .sub a b else f64AddNumber .sub a (f64Neg b)

def f64Mul (a b : B64) : B64 :=
  if f64IsNaN a || f64IsNaN b then f64NaN .mul a b
  else if f64IsInf a || f64IsInf b then
    (if f64IsZero a || f64IsZero b then f64NaN .mul a b else f64Inf (f64Sign a != f64Sign b))
  else f64Round (f64Sign a != f64Sign b) (f64Mag a * f64Mag b) f64Scale

def f64Div (a b : B64) : B64 :=
  if f64IsNaN a || f64IsNaN b then f64NaN .div a b
  else if f64IsInf a then
    (if f64IsInf b then f64NaN .div a b else f64Inf (f64Sign a != f64Sign b))
  else if f64IsInf b then f64Zero (f64Sign a != f64Sign b)
  else if f64IsZero b then
    (if f64IsZero a then f64NaN .div a b else f64Inf (f64Sign a != f64Sign b))
  else f64Round (f64Sign a != f64Sign b) (f64Mag a * f64Scale) (f64Mag b)

def f64Sqrt (a : B64) : B64 :=
  if f64IsNaN a then f64NaN .sqrt a a
  else if f64IsZero a then a
  else if f64Sign a then f64NaN .sqrt a a
  else if f64IsInf a then a
  else f64RoundSqrt (f64Mag a * f64Scale)

/-- `le0`, a ≤ 0: false for a NaN (00_scope.md R12, 40_config.md R103). -/
def f64Le0 (a : B64) : Bool := !f64IsNaN a && (f64IsZero a || f64Sign a)

/-! ## Constants -/

def f64One : B64 := 0x3FF0000000000000#64
def f64Two : B64 := 0x4000000000000000#64
def f64Half : B64 := 0x3FE0000000000000#64
def f64Eighth : B64 := 0x3FC0000000000000#64

/-- The datum nearest to pi (log 2, PRESUMED). -/
def f64Pi : B64 := 0x400921FB54442D18#64

end Sys2Proof.Machine
end

