-- ==== Sys2Proof/Machine/Elementary.lean ====
section
/-!
DEFINITION. exp, cos and sin of NUM_B64, and NUM_B64 itself (00_scope.md R13). "two models with
different library functions can differ in the last places" (93_implementation_defined.md U2), the
stated values holding "to about 1e-15 relative" (95_test_vectors.md, Numbers): each function is the
value rounded to nearest, moved by a free number of last places, at most four (log 4, 5).

The value is computed in whole numbers from the exact argument, by the power series evaluated from
the inside out.
-/

namespace Sys2Proof.Machine

/-! ## Free last places -/

/-- The datum x moved by `d` - 4 last places towards infinity (d = 4: not at all), its magnitude bits
kept from 0 to `top`. -/
def f64Nudge (d : Fin 9) (top : Nat) (x : B64) : B64 :=
  f64Make (f64Sign x) (min (x.toNat % 2 ^ 63 + d.val - 4) top)

/-- A free datum brought into [-1, 1]: the data from +0 to 1 are those with bits 0 to those of 1. -/
def f64Unit (x : B64) : B64 := f64Make (f64Sign x) (x.toNat % (f64One.toNat + 1))

/-- The magnitude bits of the largest finite datum. -/
def f64MaxBits : Nat := 2047 * 2 ^ 52 - 1

/-! ## exp -/

/-- What stands for 1 in the series of exp. Sealed, as `f64Scale`. -/
@[irreducible] def expOne : Nat := 2 ^ 1280

/-- 1 - (r / (k+1)) (1 - (r / (k+2)) (1 - ...)), r = n / d, `fuel` levels deep: at k = 0 the series
of exp (-r). -/
def expSeries (n d : Nat) : (fuel k : Nat) → Nat
  | 0, _ => expOne
  | fuel + 1, k => expOne - n * expSeries n d fuel (k + 1) / (d * (k + 1))

/-- The square, `times` times over. -/
def squareTimes : (times e : Nat) → Nat
  | 0, e => e
  | times + 1, e => squareTimes times (e * e / expOne)

/-- exp (-y) in units of 1 / `expOne`, y being `mag` / `f64Scale`: the series at y / 1024, squared ten
times. -/
def expNeg (mag : Nat) : Nat := squareTimes 10 (expSeries mag (1024 * f64Scale) 224 0)

/-- exp of a finite datum other than a zero, up to 710 in magnitude, rounded to nearest. -/
def f64ExpNearest (a : B64) : B64 :=
  if f64Sign a then f64Round false (expNeg (f64Mag a) * f64Scale) expOne
  else f64Round false (expOne * f64Scale) (expNeg (f64Mag a))

/-- exp. Stated by the spec: exp of a zero is 1, of -infinity and of arguments below about -745.2 it is
+0, of a negative argument it is in [0, 1], of a NaN a NaN (10_state.md R24, 40_config.md R105, R111
(j)). -/
def f64Exp (a : B64) : B64 :=
  if f64IsNaN a then f64NaN .exp a a
  else if f64IsZero a then f64One
  else if f64Sign a then
    if f64IsInf a || decide (7452 * f64Scale < 10 * f64Mag a) then f64Zero false
    else f64Nudge (Config.expLastPlaces a) f64One.toNat (f64ExpNearest a)
  else if f64IsInf a || decide (710 * f64Scale < f64Mag a) then f64Inf false
  else if f64IsFinite (f64ExpNearest a) then
    f64Nudge (Config.expLastPlaces a) f64MaxBits (f64ExpNearest a)
  else f64Inf false

/-! ## cos and sin -/

/-- What stands for 1 in the series of cos and sin. -/
def trigOne : Nat := 2 ^ 192

/-- 1 - (y / (m+1)(m+2)) (1 - (y / (m+3)(m+4)) (1 - ...)), y the square of `mag` / `f64Scale`, `fuel`
levels deep: at m = 0 the series of cos x, at m = 1 the series of sin x / x. -/
def trigSeries (mag : Nat) : (fuel m : Nat) → Int
  | 0, _ => trigOne
  | fuel + 1, m =>
    trigOne - (mag * mag : Nat) * trigSeries mag fuel (m + 2)
      / ((f64Scale * f64Scale * ((m + 1) * (m + 2)) : Nat) : Int)

/-- cos x in units of 1 / `trigOne`, |x| being `mag` / `f64Scale`, up to 8. -/
def cosSeries (mag : Nat) : Int := trigSeries mag 48 0

/-- sin x / x in units of 1 / `trigOne`. -/
def sincSeries (mag : Nat) : Int := trigSeries mag 48 1

/-- cos of a finite datum up to 8 in magnitude, rounded to nearest. -/
def f64CosNearest (a : B64) : B64 :=
  f64Round (decide (cosSeries (f64Mag a) < 0)) ((cosSeries (f64Mag a)).natAbs * f64Scale) trigOne

/-- sin of a finite datum up to 8 in magnitude, rounded to nearest. -/
def f64SinNearest (a : B64) : B64 :=
  f64Round (f64Sign a != decide (sincSeries (f64Mag a) < 0))
    (f64Mag a * (sincSeries (f64Mag a)).natAbs) trigOne

/-- The argument is up to 8 in magnitude. Every argument a unit computes lies in [0, 2 pi]
(40_config.md R107, 42_fft.md R133). -/
def f64UpToEight (a : B64) : Bool := decide (f64Mag a ≤ 8 * f64Scale)

/-- cos. Stated by the spec: cos 0 is 1 and cos pi is -1 at the datum nearest to pi
(95_test_vectors.md P2, K10). Never outside [-1, 1]. -/
def f64Cos (a : B64) : B64 :=
  if f64IsNaN a || f64IsInf a then f64NaN .cos a a
  else if f64IsZero a then f64One
  else if a = f64Pi then f64Neg f64One
  else if f64UpToEight a then f64Nudge (Config.cosLastPlaces a) f64One.toNat (f64CosNearest a)
  else f64Unit (Config.cosFar a)

/-- sin. Stated by the spec: sin 0 is 0 (95_test_vectors.md P2). Never outside [-1, 1]. -/
def f64Sin (a : B64) : B64 :=
  if f64IsNaN a || f64IsInf a then f64NaN .sin a a
  else if f64IsZero a then a
  else if f64UpToEight a then f64Nudge (Config.sinLastPlaces a) f64One.toNat (f64SinNearest a)
  else f64Unit (Config.sinFar a)

/-! ## The record -/

/-- NUM_B64 (00_scope.md R13). -/
def numB64 : Num B64 where
  zero := 0#64
  one := f64One
  two := f64Two
  half := f64Half
  eighth := f64Eighth
  pi := f64Pi
  ofInt := f64OfInt
  add := f64Add
  sub := f64Sub
  mul := f64Mul
  div := f64Div
  neg := f64Neg
  exp := f64Exp
  cos := f64Cos
  sin := f64Sin
  sqrt := f64Sqrt
  isZero := f64IsZero
  le0 := f64Le0
  isFinite := f64IsFinite

end Sys2Proof.Machine
end

