-- ==== Sys2Proof/Machine/State.lean ====
section
/-!
DEFINITION. The state of the block, whole (10_state.md R20), the host's transactions (20_memory.md
R63), and the machine's State: the block together with the host interface's own fields.
-/

namespace Sys2Proof.Machine

/-- One thing for each channel c = 0, 1. -/
structure PerChannel (α : Type) where
  ch0 : α
  ch1 : α
  deriving DecidableEq, Repr

/-- One thing for each spectrum k = 0 (cross), 1 (auto of channel 0), 2 (auto of channel 1). -/
structure PerSpectrum (α : Type) where
  cross : α
  auto0 : α
  auto1 : α
  deriving DecidableEq, Repr

/-- The completion codes, the values of STATUS.ERR (60_exceptions.md R200); 6 to 15 are never
produced. -/
inductive Completion where
  | ok
  | configurationError
  | invalidInput
  | notConfigured
  | illegalCommand
  | capacityError
  deriving DecidableEq, Repr

/-- The elements of an input bank that something has written, as (index, element) pairs with the
indices strictly rising; an index that is not listed holds no value (10_state.md R29,
93_implementation_defined.md U6; log 9). -/
abbrev Memory (F : Type) := List (Nat × F)

/-- The state of the block: the registers and banks of 10_state.md R20, and nothing else. A dense
bank is the list of its elements, so its length is the bank's length (R37). -/
structure Block (F : Type) where
  /-- STATUS[0] (R26) -/
  configured : Bool
  /-- STATUS[1] (R26) -/
  outValid : Bool
  /-- STATUS[7:4] (R26) -/
  err : Completion
  /-- STATUS[11:8], the block counter (R25) -/
  cnt : BitVec 4
  /-- staging register, i32 (R21) -/
  blocksize : W32
  /-- staging register, i32 (R21) -/
  hopsize : W32
  /-- staging register (R21) -/
  samplerate : F
  /-- input descriptor, u32 (R28) -/
  nch : W32
  /-- INLEN0, INLEN1, u32 (R28) -/
  inlen : PerChannel W32
  /-- ABLOCK, i32 (R22) -/
  ablock : W32
  /-- AHOP, i32 (R22) -/
  ahop : W32
  /-- AFS (R22) -/
  afs : F
  /-- NFFT, u32 (R23) -/
  nfft : W32
  /-- ALPHA (R24) -/
  alpha : F
  /-- IN0, IN1 (R29) -/
  inp : PerChannel (Memory F)
  /-- WIN (R30) -/
  win : List F
  /-- XBUF0, XBUF1 (R31) -/
  xbuf : PerChannel (List F)
  /-- SPEC0, SPEC1 (R32) -/
  spec : PerChannel (List F)
  /-- CONJ0, CONJ1 (R33) -/
  conj : PerChannel (List F)
  /-- INST0, INST1, INST2 (R34) -/
  inst : PerSpectrum (List F)
  /-- ACC0, ACC1, ACC2 (R35) -/
  acc : PerSpectrum (List F)
  /-- OUT0, OUT1, OUT2 (R36) -/
  out : PerSpectrum (List F)
  deriving DecidableEq, Repr

/-- The block right after a hardware reset (10_state.md R41, column "after reset";
70_reset_and_hazards.md R220; log 24); `zero` is +0 of NUM. -/
def Block.reset {F : Type} (zero : F) : Block F where
  configured := false
  outValid := false
  err := .ok
  cnt := 0#4
  blocksize := 0#32
  hopsize := 0#32
  samplerate := zero
  nch := 0#32
  inlen := ⟨0#32, 0#32⟩
  ablock := 0#32
  ahop := 0#32
  afs := zero
  nfft := 0#32
  alpha := zero
  inp := ⟨[], []⟩
  win := []
  xbuf := ⟨[], []⟩
  spec := ⟨[], []⟩
  conj := ⟨[], []⟩
  inst := ⟨[], [], []⟩
  acc := ⟨[], [], []⟩
  out := ⟨[], [], []⟩

/-- The thirteen registers (20_memory.md R61). -/
inductive Reg where
  | cmd | status | blocksize | hopsize | samplerate | nch | inlen0 | inlen1
  | ablock | ahop | afs | nfft | alpha
  deriving DecidableEq, Repr

/-- The eighteen banks (20_memory.md R62). -/
inductive Bank where
  | inp (c : Channel)
  | win
  | xbuf (c : Channel)
  | spec (c : Channel)
  | conj (c : Channel)
  | inst (k : Spectrum)
  | acc (k : Spectrum)
  | out (k : Spectrum)
  deriving DecidableEq, Repr

/-- A value that a transaction carries: a word (value types W32, i32, u32) or a number of type F
(20_memory.md R61, R64; log 21). -/
inductive Value (F : Type) where
  | word (w : W32)
  | num (v : F)
  deriving DecidableEq, Repr

/-- What can happen at the host interface: the four transactions (20_memory.md R63) and a pulse of
the reset input (70_reset_and_hazards.md R220). Register and bank numbers are the host's, any
natural number. -/
inductive HostEvent (F : Type) where
  | regRead (reg : Nat)
  | regWrite (reg : Nat) (v : Value F)
  | memRead (bank index : Nat)
  | memWrite (bank index : Nat) (v : Value F)
  | reset
  deriving DecidableEq, Repr

/-- What a transaction answers: Value(v), Ok or BusError (20_memory.md R63). -/
inductive Response (F : Type) where
  | value (v : Value F)
  | ok
  | busError
  deriving DecidableEq, Repr

/-- The machine: the block at NUM_B64 and the host interface's fields, which are the model's own
(log 11). `pending` is what the host still wants done, oldest first; `response` is what the last
transaction answered; `epoch` counts the reset pulses taken (log 10). -/
structure State where
  block : Block B64
  pending : List (HostEvent B64)
  response : Option (Response B64)
  epoch : Nat
  deriving DecidableEq, Repr

/-- The machine right after reset: the block as 10_state.md R41 says (+0 is the all-zero datum),
no event pending, nothing answered yet (log 11). -/
def State.reset : State where
  block := Block.reset 0#64
  pending := []
  response := none
  epoch := 0

/-- Why the machine stops with a fault. -/
inductive Fault where
  /-- Raised by WIN and PROCESS when they need element `index` of the input bank of channel `c` and
  nothing has written it since reset (41_window.md R122 (d), 93_implementation_defined.md U6;
  log 9). Safe: the hardware goes on with some value, the model allows no conclusion about it. -/
  | unwrittenInput (c : Channel) (index : Nat)
  deriving DecidableEq, Repr

/-- Why the machine gives an instruction no meaning. -/
inductive Refusal where
  /-- Raised by an arm of exec for an instruction not modelled yet. No arm raises it: every row of
  the opcode table has its meaning. Safe. -/
  | notModelled (mnemonic : String)
  deriving DecidableEq, Repr

end Sys2Proof.Machine
end

