-- ==== Sys2Proof/Machine/Operands.lean ====
section
/-!
DEFINITION. Operands and numbers: what an ARG field, a register number and a bank number stand for,
and the access to one of the banks of a kind by its channel or spectrum.
-/

namespace Sys2Proof.Machine

/-- The channel an ARG field names: 0 or 1, otherwise none (30_encoding.md R81, FMT1). -/
def channelOf (arg : BitVec 8) : Option Channel :=
  if arg = 0#8 then some .ch0 else if arg = 1#8 then some .ch1 else none

/-- The spectrum an ARG field names: 0, 1 or 2, otherwise none (30_encoding.md R81, FMT2). -/
def spectrumOf (arg : BitVec 8) : Option Spectrum :=
  if arg = 0#8 then some .cross else if arg = 1#8 then some .auto0
  else if arg = 2#8 then some .auto1 else none

/-- The channel number c. -/
def channelNumber : Channel → Nat
  | .ch0 => 0
  | .ch1 => 1

/-- The spectrum number k. -/
def spectrumNumber : Spectrum → Nat
  | .cross => 0
  | .auto0 => 1
  | .auto1 => 2

/-- The one of channel c. -/
def PerChannel.get {α : Type} (p : PerChannel α) : Channel → α
  | .ch0 => p.ch0
  | .ch1 => p.ch1

/-- With the one of channel c replaced. -/
def PerChannel.set {α : Type} (p : PerChannel α) (c : Channel) (a : α) : PerChannel α :=
  match c with
  | .ch0 => { p with ch0 := a }
  | .ch1 => { p with ch1 := a }

/-- The one of spectrum k. -/
def PerSpectrum.get {α : Type} (p : PerSpectrum α) : Spectrum → α
  | .cross => p.cross
  | .auto0 => p.auto0
  | .auto1 => p.auto1

/-- With the one of spectrum k replaced. -/
def PerSpectrum.set {α : Type} (p : PerSpectrum α) (k : Spectrum) (a : α) : PerSpectrum α :=
  match k with
  | .cross => { p with cross := a }
  | .auto0 => { p with auto0 := a }
  | .auto1 => { p with auto1 := a }

/-- The channel whose spectrum is the first factor P of CMUL k (43_cmac.md R142). -/
def cmulFirst : Spectrum → Channel
  | .cross => .ch0
  | .auto0 => .ch0
  | .auto1 => .ch1

/-- The channel whose conjugated spectrum is the second factor Q of CMUL k (43_cmac.md R142). -/
def cmulSecond : Spectrum → Channel
  | .cross => .ch1
  | .auto0 => .ch0
  | .auto1 => .ch1

/-- The register with this number, none above 12 (20_memory.md R61). -/
def regOfNumber : Nat → Option Reg
  | 0 => some .cmd
  | 1 => some .status
  | 2 => some .blocksize
  | 3 => some .hopsize
  | 4 => some .samplerate
  | 5 => some .nch
  | 6 => some .inlen0
  | 7 => some .inlen1
  | 8 => some .ablock
  | 9 => some .ahop
  | 10 => some .afs
  | 11 => some .nfft
  | 12 => some .alpha
  | _ => none

/-- The bank with this number, none above 17 (20_memory.md R62). -/
def bankOfNumber : Nat → Option Bank
  | 0 => some (.inp .ch0)
  | 1 => some (.inp .ch1)
  | 2 => some .win
  | 3 => some (.xbuf .ch0)
  | 4 => some (.xbuf .ch1)
  | 5 => some (.spec .ch0)
  | 6 => some (.spec .ch1)
  | 7 => some (.conj .ch0)
  | 8 => some (.conj .ch1)
  | 9 => some (.inst .cross)
  | 10 => some (.inst .auto0)
  | 11 => some (.inst .auto1)
  | 12 => some (.acc .cross)
  | 13 => some (.acc .auto0)
  | 14 => some (.acc .auto1)
  | 15 => some (.out .cross)
  | 16 => some (.out .auto0)
  | 17 => some (.out .auto1)
  | _ => none

/-- The elements of a dense bank, none for an input bank. -/
def Block.denseBank {F : Type} (b : Block F) : Bank → Option (List F)
  | .inp _ => none
  | .win => some b.win
  | .xbuf c => some (b.xbuf.get c)
  | .spec c => some (b.spec.get c)
  | .conj c => some (b.conj.get c)
  | .inst k => some (b.inst.get k)
  | .acc k => some (b.acc.get k)
  | .out k => some (b.out.get k)

end Sys2Proof.Machine
end

