-- ==== Sys2Proof/Machine/Flags.lean ====
section
/-!
DEFINITION. The STATUS register as the host reads it (10_state.md R26), the completion codes
(60_exceptions.md R200), the conditions the sequencer tests (10_state.md R39) and the level outputs
(60_exceptions.md R210).
-/

namespace Sys2Proof.Machine

/-- The numeric code of a completion (60_exceptions.md R200). -/
def completionCode : Completion → BitVec 4
  | .ok => 0#4
  | .configurationError => 1#4
  | .invalidInput => 2#4
  | .notConfigured => 3#4
  | .illegalCommand => 4#4
  | .capacityError => 5#4

/-- STATUS: CONFIGURED in bit 0, OUT_VALID in bit 1, zero in bits 3:2, ERR in bits 7:4, CNT in bits
11:8, zero in bits 31:12 (10_state.md R26). -/
def Block.statusWord {F : Type} (b : Block F) : W32 :=
  (0#20 ++ b.cnt ++ completionCode b.err ++ 0#2 ++ BitVec.ofBool b.outValid
    ++ BitVec.ofBool b.configured : BitVec (20 + 4 + 4 + 2 + 1 + 1))

/-- The level output `out_valid` (60_exceptions.md R210; log 26). -/
def Block.outValidPin {F : Type} (b : Block F) : Bool := b.outValid

/-- The level output `err`: STATUS.ERR is not 0 (60_exceptions.md R210; log 26). -/
def Block.errPin {F : Type} (b : Block F) : Bool := decide (completionCode b.err ≠ 0#4)

/-- B, the active blockSize, as a length (00_scope.md R16). -/
def Block.blockLen {F : Type} (b : Block F) : Nat := b.ablock.toInt.toNat

/-- N, the FFT size (00_scope.md R16). -/
def Block.fftLen {F : Type} (b : Block F) : Nat := b.nfft.toNat

/-- NCH is not 2 (41_window.md R121). -/
def Block.wrongChannelCount {F : Type} (b : Block F) : Bool :=
  decide (b.nch.toNat ≠ Config.channelCount)

/-- INLENc < B, a u32 and an i32 compared as integers (41_window.md R121, 00_scope.md R17 (d)). -/
def Block.rowTooShort {F : Type} (b : Block F) (c : Channel) : Bool :=
  decide (((b.inlen.get c).toNat : Int) < b.ablock.toInt)

/-- The counter's next value, before it is stored (45_decimate_emit.md R160). -/
def Block.nextCount {F : Type} (b : Block F) : Nat := b.cnt.toNat + 1

end Sys2Proof.Machine
end

