-- ==== Sys2Proof/Machine/Ops.lean ====
section
/-!
DEFINITION. The named operations: input memory, loops over a bank, and how a command ends, in an
error (60_exceptions.md R208) or well (40_config.md R100). There is no return from an error
(60_exceptions.md R209): the next command just runs.
-/

namespace Sys2Proof.Machine

variable {F : Type}

/-! ## Input memory -/

/-- The canonical form: the indices strictly rise. -/
def Memory.wf : Memory F → Bool
  | [] => true
  | [_] => true
  | (i, _) :: (j, w) :: rest => decide (i < j) && Memory.wf ((j, w) :: rest)

/-- Element i, none where nothing has written it (10_state.md R29). -/
def memRead : Memory F → Nat → Option F
  | [], _ => none
  | (j, w) :: rest, i => if j = i then some w else memRead rest i

/-- Element i takes the value v; the canonical form is kept. -/
def memWrite : Memory F → Nat → F → Memory F
  | [], i, v => [(i, v)]
  | (j, w) :: rest, i, v =>
    if i < j then (i, v) :: (j, w) :: rest
    else if i = j then (i, v) :: rest
    else (j, w) :: memWrite rest i v

/-- The `count` elements from index `i` on, or the first index that nothing has written
(41_window.md R122 (d)). -/
def readRow (m : Memory F) : (count i : Nat) → Except Nat (List F)
  | 0, _ => .ok []
  | count + 1, i =>
    match memRead m i with
    | none => .error i
    | some v =>
      match readRow m count (i + 1) with
      | .ok rest => .ok (v :: rest)
      | .error j => .error j

/-! ## Dense banks -/

/-- Element i of a bank or list; a rule's indices always lie inside (10_state.md R42; log 16). -/
def elem (num : Num F) (bank : List F) (i : Nat) : F := bank.getD i num.zero

/-- The bank from element `i` on after a loop that writes v at the indices where `v` has one. -/
def storeFrom (v : Nat → Option F) : (i : Nat) → List F → List F
  | _, [] => []
  | i, old :: rest => (v i).getD old :: storeFrom v (i + 1) rest

/-- A loop `BANK[i] <- ...`: element i takes `v i` where there is one and stays otherwise
(00_scope.md R14). -/
def storeElems (v : Nat → Option F) (bank : List F) : List F := storeFrom v 0 bank

/-! ## One bank of a kind replaced -/

def Block.setXbuf (b : Block F) (c : Channel) (l : List F) : Block F :=
  { b with xbuf := b.xbuf.set c l }

def Block.setSpec (b : Block F) (c : Channel) (l : List F) : Block F :=
  { b with spec := b.spec.set c l }

def Block.setConj (b : Block F) (c : Channel) (l : List F) : Block F :=
  { b with conj := b.conj.set c l }

def Block.setInst (b : Block F) (k : Spectrum) (l : List F) : Block F :=
  { b with inst := b.inst.set k l }

def Block.setAcc (b : Block F) (k : Spectrum) (l : List F) : Block F :=
  { b with acc := b.acc.set k l }

def Block.setOut (b : Block F) (out : PerSpectrum (List F)) : Block F :=
  { b with out := out }

/-- STATUS.CNT and STATUS.OUT_VALID written together, as TICK does (45_decimate_emit.md R160). -/
def Block.setCount (b : Block F) (cnt : BitVec 4) (outValid : Bool) : Block F :=
  { b with cnt := cnt, outValid := outValid }

/-! ## How a command ends -/

/-- Taking an error: STATUS.ERR holds the code, nothing is saved, no mode changes, control goes
nowhere (60_exceptions.md R208). -/
def Block.raise (b : Block F) (e : Completion) : Block F := { b with err := e }

/-- A command that ran to its end leaves ERR at 0 (40_config.md R100). -/
def Block.complete (b : Block F) : Block F := { b with err := .ok }

/-- A command that needs an estimator and cannot fail otherwise (30_encoding.md R89 steps 2 to 4). -/
def Block.command (effect : Block F → Block F) (b : Block F) : Block F :=
  if b.configured then (effect b).complete else b.raise .notConfigured

/-- A command that needs an estimator and has an input check of its own, which comes before its
first write (30_encoding.md R89, 60_exceptions.md R207, R208). -/
def Block.checkedCommand (bad : Block F → Bool) (effect : Block F → Except Fault (Block F))
    (b : Block F) : Except Fault (Block F) :=
  if b.configured then
    if bad b then .ok (b.raise .invalidInput) else (effect b).map Block.complete
  else .ok (b.raise .notConfigured)

end Sys2Proof.Machine
end

