-- ==== Sys2Proof/Machine/Construct.lean ====
section
/-!
DEFINITION. NOP and CONFIG (40_config.md): the functions CONFIG uses, its checks, and construction.
-/

namespace Sys2Proof.Machine

variable {F : Type}

/-! ## NOP -/

/-- NOP: nothing but the completion code OK, configured or not (40_config.md R101). -/
def runNop (b : Block F) : Block F := b.complete

/-! ## Functions CONFIG uses -/

/-- The least m with x ≤ 2^m, the halving counted by `fuel` steps at most. -/
def log2CeilFuel : (fuel x : Nat) → Nat
  | 0, _ => 0
  | fuel + 1, x => if x ≤ 1 then 0 else log2CeilFuel fuel ((x + 1) / 2) + 1

/-- The least m with x ≤ 2^m (40_config.md R102). -/
def log2Ceil (x : Nat) : Nat := log2CeilFuel x x

/-- nextPow2: the smallest power of two ≥ x, for x ≥ 1 (40_config.md R102). -/
def nextPow2 (x : Nat) : Nat := 2 ^ log2Ceil x

/-- alpha = exp(-((b - h) / (fs * 0.125))), the operations in this order (40_config.md R105). -/
def alphaOf (num : Num F) (b h : Int) (fs : F) : F :=
  num.exp (num.neg (num.div (num.ofInt (b - h)) (num.mul fs num.eighth)))

/-- The Hann shape h[n] before normalisation (40_config.md R107). -/
def hannShape (num : Num F) (b n : Nat) : F :=
  num.sub num.half (num.mul num.half
    (num.cos (num.div (num.mul (num.mul num.two num.pi) (num.ofInt n)) (num.ofInt b))))

/-- The sum of the squares of a list in increasing index, started from its first square
(40_config.md R107, s2). -/
def sumSquares (num : Num F) : List F → F
  | [] => num.zero
  | h :: rest => rest.foldl (fun s x => num.add s (num.mul x x)) (num.mul h h)

/-- The default window generator (40_config.md R107; log 6). -/
def winDefault (num : Num F) (b N : Nat) : List F :=
  let h := (List.range b).map (hannShape num b)
  let g := num.sqrt (num.mul (num.div (num.ofInt b) (num.ofInt N)) (sumSquares num h))
  h.map fun x => num.div x g

/-! ## CONFIG -/

/-- The validity checks of CONFIG, any of which raises ConfigurationError (40_config.md R103). -/
def Block.configInvalid (num : Num F) (b : Block F) : Bool :=
  decide (b.blocksize.toInt ≤ 0) || decide (b.hopsize.toInt ≤ 0)
    || decide (b.blocksize.toInt < b.hopsize.toInt)
    || !num.isFinite b.samplerate || num.le0 b.samplerate

/-- The capacity check of CONFIG, which raises CapacityError (40_config.md R104). -/
def Block.overCapacity (log2NfftMax : Nat) (b : Block F) : Bool :=
  decide (b.blocksize.toInt < 2) || decide (b.blocksize.toInt > ((2 ^ log2NfftMax : Nat) : Int))

/-- The previous estimator is destroyed: flags, counter, active and derived registers to zero, banks
2 to 17 to length 0 (40_config.md R108, first four lines). -/
def Block.destroy (zero : F) (b : Block F) : Block F :=
  { b with
    configured := false, outValid := false, cnt := 0#4
    ablock := 0#32, ahop := 0#32, afs := zero, nfft := 0#32, alpha := zero
    win := [], xbuf := ⟨[], []⟩, spec := ⟨[], []⟩, conj := ⟨[], []⟩
    inst := ⟨[], [], []⟩, acc := ⟨[], [], []⟩, out := ⟨[], [], []⟩ }

/-- The first n elements of a generated list, n of them in any case (log 16). -/
def firstElems (num : Num F) : (n : Nat) → List F → List F
  | 0, _ => []
  | n + 1, [] => num.zero :: firstElems num n []
  | n + 1, a :: rest => a :: firstElems num n rest

/-- A new estimator from the staging registers (40_config.md R108, from `N <- nextPow2(b)` on):
active and derived registers, the window, and every other bank zeroed at its length (10_state.md
R20). -/
def Block.construct (p : Params F) (b : Block F) : Block F :=
  let bl := b.blocksize.toInt.toNat
  let N := nextPow2 bl
  let z := fun n => List.replicate n p.num.zero
  { b with
    ablock := b.blocksize, ahop := b.hopsize, afs := b.samplerate, nfft := BitVec.ofNat 32 N
    alpha := alphaOf p.num b.blocksize.toInt b.hopsize.toInt b.samplerate
    win := firstElems p.num bl (p.winGen bl N)
    xbuf := ⟨z N, z N⟩
    spec := ⟨z (2 * N), z (2 * N)⟩
    conj := ⟨z (2 * N), z (2 * N)⟩
    inst := ⟨z (2 * N), z (2 * N), z (2 * N)⟩
    acc := ⟨z (2 * N), z (2 * N), z (2 * N)⟩
    out := ⟨z (N + 2), z (N / 2 + 1), z (N / 2 + 1)⟩
    configured := true }

/-- CONFIG (40_config.md R108, R109): destroy, check, construct. It runs configured or not, and a
failed CONFIG leaves the block unconfigured. -/
def runConfig (p : Params F) (b : Block F) : Block F :=
  let d := b.destroy p.num.zero
  if d.configInvalid p.num then d.raise .configurationError
  else if d.overCapacity p.log2NfftMax then d.raise .capacityError
  else (d.construct p).complete

end Sys2Proof.Machine
end

