-- ==== Sys2Proof/Machine/Fft.lean ====
section
/-!
DEFINITION. FFT c: the FFT engine (42_fft.md), and the default transform of R133.
-/

namespace Sys2Proof.Machine

variable {F : Type}

/-! ## The default transform -/

/-- Elements 0, 2, 4, ... of a list. -/
def evens {α : Type} : List α → List α
  | [] => []
  | [a] => [a]
  | a :: _ :: rest => a :: evens rest

/-- Elements 1, 3, 5, ... of a list. -/
def odds {α : Type} : List α → List α
  | [] => []
  | [_] => []
  | _ :: b :: rest => b :: odds rest

/-- (tr, ti): element k of the odd half times the twiddle of k and M (42_fft.md R133). -/
def twiddle (num : Num F) (M k : Nat) (o : F × F) : F × F :=
  let a := num.div (num.mul (num.mul num.two num.pi) (num.ofInt k)) (num.ofInt M)
  let wr := num.cos a
  let wi := num.neg (num.sin a)
  (num.sub (num.mul wr o.1) (num.mul wi o.2), num.add (num.mul wr o.2) (num.mul wi o.1))

/-- The odd half, each element times its twiddle, from element k on. -/
def twiddleFrom (num : Num F) (M : Nat) : (k : Nat) → List (F × F) → List (F × F)
  | _, [] => []
  | k, o :: rest => twiddle num M k o :: twiddleFrom num M (k + 1) rest

def pairAdd (num : Num F) (e t : F × F) : F × F := (num.add e.1 t.1, num.add e.2 t.2)

def pairSub (num : Num F) (e t : F × F) : F × F := (num.sub e.1 t.1, num.sub e.2 t.2)

/-- rec(2^m, z): radix-2 decimation in time (42_fft.md R133). -/
def fftRec (num : Num F) : (m : Nat) → List (F × F) → List (F × F)
  | 0, z => z
  | m + 1, z =>
    let E := fftRec num m (evens z)
    let T := twiddleFrom num (2 ^ (m + 1)) 0 (fftRec num m (odds z))
    List.zipWith (pairAdd num) E T ++ List.zipWith (pairSub num) E T

/-- Bin k after the mirror: bins 0 and N/2 with imaginary part +0, bins above N/2 the conjugates of
their mirrors (42_fft.md R133). -/
def mirrorBin (num : Num F) (N : Nat) (Y : List (F × F)) (k : Nat) : F × F :=
  let z := (num.zero, num.zero)
  if k = 0 ∨ k = N / 2 then ((Y.getD k z).1, num.zero)
  else if k < N / 2 then Y.getD k z
  else ((Y.getD (N - k) z).1, num.neg (Y.getD (N - k) z).2)

/-- The interleaved layout of a list of bins (20_memory.md R68). -/
def interleave : List (F × F) → List F
  | [] => []
  | (re, im) :: rest => re :: im :: interleave rest

/-- The default `fft` (42_fft.md R133; log 7), N a power of two. -/
def fftDefault (num : Num F) (N : Nat) (x : List F) : List F :=
  let Y := fftRec num (log2Ceil N) ((firstElems num N x).map fun v => (v, num.zero))
  interleave ((List.range N).map (mirrorBin num N Y))

/-! ## FFT c -/

/-- The effect of FFT c: SPECc takes the 2N elements of fft of the N elements of XBUFc (42_fft.md
R130). -/
def fftEffect (p : Params F) (c : Channel) (b : Block F) : Block F :=
  let X := p.fft b.fftLen (firstElems p.num b.fftLen (b.xbuf.get c))
  b.setSpec c (storeElems (fun i =>
    if i < 2 * b.fftLen then some (elem p.num X i) else none) (b.spec.get c))

/-- FFT c as a command (42_fft.md R130). -/
def runFft (p : Params F) (arg : BitVec 8) (b : Block F) : Block F :=
  match channelOf arg with
  | none => b.raise .illegalCommand
  | some c => b.command (fftEffect p c)

end Sys2Proof.Machine
end

