-- ==== Sys2Proof/Machine/Params.lean ====
section
/-!
DEFINITION. The parameters the machine runs at: NUM_B64 with the spec's defaults (92_eei_decisions.md,
"Open parameters in one list"; log 1, 6, 7, 8, 22).
-/

namespace Sys2Proof.Machine

/-- The defaults of the window generator, the transform and the size limit over a numerics record
(40_config.md R107, 42_fft.md R133, 00_scope.md R8); the tolerances have no default and are free. -/
def defaultParams {F : Type} (num : Num F) : Params F where
  num := num
  winGen := winDefault num
  fft := fftDefault num
  log2NfftMax := Config.log2NfftMax
  size_legal := by decide
  epsFft := Config.epsFft
  epsWin := Config.epsWin

/-- The parameters of the machine: the defaults over NUM_B64. -/
def params : Params B64 := defaultParams numB64

end Sys2Proof.Machine
end

