-- ==== Sys2Proof/Machine/Cmac.lean ====
section
/-!
DEFINITION. CONJ c and CMUL k: the conjugator and the complex multiplier (43_cmac.md).
-/

namespace Sys2Proof.Machine

variable {F : Type}

/-- The effect of CONJ c: the imaginary part of every bin of SPECc negated into CONJc (43_cmac.md
R140). -/
def conjEffect (p : Params F) (c : Channel) (b : Block F) : Block F :=
  let S := b.spec.get c
  b.setConj c (storeElems (fun i =>
    if i < 2 * b.fftLen then
      some (if i % 2 = 0 then elem p.num S i else p.num.neg (elem p.num S i))
    else none) (b.conj.get c))

/-- CONJ c as a command (43_cmac.md R140). -/
def runConj (p : Params F) (arg : BitVec 8) (b : Block F) : Block F :=
  match channelOf arg with
  | none => b.raise .illegalCommand
  | some c => b.command (conjEffect p c)

/-- The complex multiplier: four rounded products, one difference, one sum, in this order of
operands (43_cmac.md R141). -/
def cmulPair (num : Num F) (x y : F × F) : F × F :=
  (num.sub (num.mul x.1 y.1) (num.mul x.2 y.2), num.add (num.mul x.1 y.2) (num.mul x.2 y.1))

/-- Element j of the product of two interleaved spectra: the bin of j starts at element
i = 2 (j / 2) (43_cmac.md R142). -/
def cmulElem (num : Num F) (P Q : List F) (j : Nat) : F :=
  let i := 2 * (j / 2)
  let z := cmulPair num (elem num P i, elem num P (i + 1)) (elem num Q i, elem num Q (i + 1))
  if j % 2 = 0 then z.1 else z.2

/-- The effect of CMUL k: for i = 0, 2, ... while i < 2N - 1 the pair (i, i + 1) of INSTk is the
product of the bins of P and Q (43_cmac.md R142, R143). -/
def cmulEffect (p : Params F) (k : Spectrum) (b : Block F) : Block F :=
  let P := b.spec.get (cmulFirst k)
  let Q := b.conj.get (cmulSecond k)
  b.setInst k (storeElems (fun j =>
    if 2 * (j / 2) < 2 * b.fftLen - 1 then some (cmulElem p.num P Q j) else none) (b.inst.get k))

/-- CMUL k as a command (43_cmac.md R142). -/
def runCmul (p : Params F) (arg : BitVec 8) (b : Block F) : Block F :=
  match spectrumOf arg with
  | none => b.raise .illegalCommand
  | some k => b.command (cmulEffect p k)

end Sys2Proof.Machine
end

