-- ==== Sys2Proof/Machine/Decimate.lean ====
section
/-!
DEFINITION. TICK: the block counter, the one-sided extraction and the scaling (45_decimate_emit.md).
The oddities of R163 and R164 are the source's and are kept.
-/

namespace Sys2Proof.Machine

variable {F : Type}

/-- Divisor of the end bins, d1 = AFS (45_decimate_emit.md R161). -/
def Block.endDivisor (b : Block F) : F := b.afs

/-- Divisor of the interior bins, d2 = 2 * AFS (45_decimate_emit.md R161). -/
def Block.interiorDivisor (num : Num F) (b : Block F) : F := num.mul num.two b.afs

/-- What extraction writes at element i of OUT0, none where it writes nothing (45_decimate_emit.md
R162, R164). -/
def extractCross (num : Num F) (b : Block F) (i : Nat) : Option F :=
  if 2 ≤ i ∧ i < b.fftLen then
    some (num.div (elem num b.acc.cross i) (b.interiorDivisor num))
  else if i = b.fftLen then some (num.div (elem num b.acc.cross b.fftLen) b.endDivisor)
  else if i = 0 then some (num.div (elem num b.acc.cross 0) b.endDivisor)
  else none

/-- What extraction writes at element i of OUT1 or OUT2 from that spectrum's accumulator: the last
bin takes element N - 1, and element N/2 - 1 is not written (45_decimate_emit.md R163, R164). -/
def extractAuto (num : Num F) (b : Block F) (A : List F) (i : Nat) : Option F :=
  if 1 ≤ i ∧ i < b.fftLen / 2 - 1 then
    some (num.div (elem num A (2 * i)) (b.interiorDivisor num))
  else if i = b.fftLen / 2 then some (num.div (elem num A (b.fftLen - 1)) b.endDivisor)
  else if i = 0 then some (num.div (elem num A 0) b.endDivisor)
  else none

/-- Extraction: the three output banks from the accumulator, which stays (45_decimate_emit.md R161
to R164). -/
def extract (p : Params F) (b : Block F) : Block F :=
  b.setOut
    ⟨storeElems (extractCross p.num b) b.out.cross,
     storeElems (extractAuto p.num b b.acc.auto0) b.out.auto0,
     storeElems (extractAuto p.num b b.acc.auto1) b.out.auto1⟩

/-- The effect of TICK: count, and on the tenth extract and start again (45_decimate_emit.md R160;
a stored count above 9 is not reachable, log 18). -/
def tickEffect (p : Params F) (b : Block F) : Block F :=
  if b.nextCount < Config.decim then b.setCount (BitVec.ofNat 4 b.nextCount) false
  else (extract p b).setCount 0#4 true

/-- TICK as a command (45_decimate_emit.md R160). -/
def runTick (p : Params F) (b : Block F) : Block F := b.command (tickEffect p)

end Sys2Proof.Machine
end

