-- ==== Sys2Proof/Machine/Smooth.lean ====
section
/-!
DEFINITION. SMOOTH k: the exponential smoothing filter (44_smooth.md).
-/

namespace Sys2Proof.Machine

variable {F : Type}

/-- One pole: (alpha * old) + (beta * input), two products and one sum (44_smooth.md R150). -/
def smoothElem (num : Num F) (alpha old input : F) : F :=
  num.add (num.mul alpha old) (num.mul (num.sub num.one alpha) input)

/-- The effect of SMOOTH k: every element of ACCk is smoothed in place (44_smooth.md R150, R151). -/
def smoothEffect (p : Params F) (k : Spectrum) (b : Block F) : Block F :=
  let A := b.acc.get k
  let I := b.inst.get k
  b.setAcc k (storeElems (fun i =>
    if i < 2 * b.fftLen then some (smoothElem p.num b.alpha (elem p.num A i) (elem p.num I i))
    else none) A)

/-- SMOOTH k as a command (44_smooth.md R150). -/
def runSmooth (p : Params F) (arg : BitVec 8) (b : Block F) : Block F :=
  match spectrumOf arg with
  | none => b.raise .illegalCommand
  | some k => b.command (smoothEffect p k)

end Sys2Proof.Machine
end

