-- ==== Sys2Proof/Machine/Window.lean ====
section
/-!
DEFINITION. WIN c: the windowing unit (41_window.md).
-/

namespace Sys2Proof.Machine

variable {F : Type}

/-- WIN c raises InvalidInput: NCH is not 2, or its own row is shorter than B (41_window.md R121). -/
def Block.winInputBad (c : Channel) (b : Block F) : Bool :=
  b.wrongChannelCount || b.rowTooShort c

/-- The two loops of WIN c on the samples `row` of channel c: sample times coefficient below B, +0
from B to N - 1 (41_window.md R120). -/
def Block.windowRow (num : Num F) (c : Channel) (row : List F) (b : Block F) : Block F :=
  b.setXbuf c (storeElems (fun n =>
    if n < b.blockLen then some (num.mul (elem num row n) (elem num b.win n))
    else if n < b.fftLen then some num.zero
    else none) (b.xbuf.get c))

/-- The effect of WIN c once its check has passed; it faults on a sample nothing has written
(41_window.md R120, R122 (d)). -/
def winEffect (p : Params F) (c : Channel) (b : Block F) : Except Fault (Block F) :=
  match readRow (b.inp.get c) b.blockLen 0 with
  | .error i => .error (.unwrittenInput c i)
  | .ok row => .ok (b.windowRow p.num c row)

/-- WIN c as a command (41_window.md R120, R121). -/
def runWin (p : Params F) (arg : BitVec 8) (b : Block F) : Except Fault (Block F) :=
  match channelOf arg with
  | none => .ok (b.raise .illegalCommand)
  | some c => b.checkedCommand (Block.winInputBad c) (winEffect p c)

end Sys2Proof.Machine
end

