-- ==== Sys2Proof/Machine/Process.lean ====
section
/-!
DEFINITION. PROCESS: one whole call (46_process.md R180, R181).
-/

namespace Sys2Proof.Machine

variable {F : Type}

/-- PROCESS raises InvalidInput: NCH is not 2, or a row is shorter than B (46_process.md R180). -/
def Block.processInputBad (b : Block F) : Bool :=
  b.wrongChannelCount || b.rowTooShort .ch0 || b.rowTooShort .ch1

/-- Step 2 of a call: FFT 0, FFT 1 (46_process.md R180). -/
def fftStep (p : Params F) (b : Block F) : Block F := fftEffect p .ch1 (fftEffect p .ch0 b)

/-- Step 3 of a call: CONJ 0, CONJ 1 (46_process.md R180). -/
def conjStep (p : Params F) (b : Block F) : Block F := conjEffect p .ch1 (conjEffect p .ch0 b)

/-- Step 4 of a call: CMUL 0, CMUL 1, CMUL 2 (46_process.md R180). -/
def cmulStep (p : Params F) (b : Block F) : Block F :=
  cmulEffect p .auto1 (cmulEffect p .auto0 (cmulEffect p .cross b))

/-- Step 5 of a call: SMOOTH 0, SMOOTH 1, SMOOTH 2 (46_process.md R180). -/
def smoothStep (p : Params F) (b : Block F) : Block F :=
  smoothEffect p .auto1 (smoothEffect p .auto0 (smoothEffect p .cross b))

/-- Steps 2 to 5 of a call, in the source's order (46_process.md R180). -/
def spectralSteps (p : Params F) (b : Block F) : Block F :=
  smoothStep p (cmulStep p (conjStep p (fftStep p b)))

/-- The thirteen steps of a call, each without its decode, its configured check and its write of ERR
(46_process.md R180; log 20). -/
def processEffect (p : Params F) (b : Block F) : Except Fault (Block F) :=
  match winEffect p .ch0 b with
  | .error f => .error f
  | .ok b0 =>
    match winEffect p .ch1 b0 with
    | .error f => .error f
    | .ok b1 => .ok (tickEffect p (spectralSteps p b1))

/-- PROCESS as a command: the input check comes before any write (46_process.md R181). -/
def runProcess (p : Params F) (b : Block F) : Except Fault (Block F) :=
  b.checkedCommand Block.processInputBad (processEffect p)

end Sys2Proof.Machine
end

