-- ==== Sys2Proof/Machine/Commands.lean ====
section
/-!
DEFINITION. The meaning of each command on the machine's State: the unit's command at the machine's
parameters, on the block; the host interface's fields stay as they are.
-/

namespace Sys2Proof.Machine

/-- The state with its block replaced. -/
def State.withBlock (s : State) (b : Block B64) : State := { s with block := b }

/-- The outcome of a command that may fault on an unwritten sample. -/
def State.outcome (s : State) : Except Fault (Block B64) → Host.Outcome State Fault Refusal
  | .ok b => .next (s.withBlock b)
  | .error f => .fault f

/-- NOP (40_config.md R101). -/
def execNop (s : State) : Host.Outcome State Fault Refusal :=
  .next (s.withBlock (runNop s.block))

/-- CONFIG (40_config.md R108). -/
def execConfig (s : State) : Host.Outcome State Fault Refusal :=
  .next (s.withBlock (runConfig params s.block))

/-- PROCESS (46_process.md R180). -/
def execProcess (s : State) : Host.Outcome State Fault Refusal :=
  s.outcome (runProcess params s.block)

/-- WIN c (41_window.md R120). -/
def execWin (arg : BitVec 8) (s : State) : Host.Outcome State Fault Refusal :=
  s.outcome (runWin params arg s.block)

/-- FFT c (42_fft.md R130). -/
def execFft (arg : BitVec 8) (s : State) : Host.Outcome State Fault Refusal :=
  .next (s.withBlock (runFft params arg s.block))

/-- CONJ c (43_cmac.md R140). -/
def execConj (arg : BitVec 8) (s : State) : Host.Outcome State Fault Refusal :=
  .next (s.withBlock (runConj params arg s.block))

/-- CMUL k (43_cmac.md R142). -/
def execCmul (arg : BitVec 8) (s : State) : Host.Outcome State Fault Refusal :=
  .next (s.withBlock (runCmul params arg s.block))

/-- SMOOTH k (44_smooth.md R150). -/
def execSmooth (arg : BitVec 8) (s : State) : Host.Outcome State Fault Refusal :=
  .next (s.withBlock (runSmooth params arg s.block))

/-- TICK (45_decimate_emit.md R160). -/
def execTick (s : State) : Host.Outcome State Fault Refusal :=
  .next (s.withBlock (runTick params s.block))

end Sys2Proof.Machine
end

