-- ==== Sys2Proof/Machine/Dispatch.lean ====
section
/-!
DEFINITION. The dispatch of a decoded command to its meaning, one arm per row of
spec/opcode_table.json.
-/

namespace Sys2Proof.Machine

def exec (i : Instr) (s : State) : Host.Outcome State Fault Refusal :=
  match i with
  | .nop => Sys2Proof.Machine.execNop s
  | .config => Sys2Proof.Machine.execConfig s
  | .process => Sys2Proof.Machine.execProcess s
  | .win arg => Sys2Proof.Machine.execWin arg s
  | .fft arg => Sys2Proof.Machine.execFft arg s
  | .conj arg => Sys2Proof.Machine.execConj arg s
  | .cmul arg => Sys2Proof.Machine.execCmul arg s
  | .smooth arg => Sys2Proof.Machine.execSmooth arg s
  | .tick => Sys2Proof.Machine.execTick s

end Sys2Proof.Machine
end

