-- ==== Sys2Proof/Machine/Transactions.lean ====
section
/-!
DEFINITION. The host interface: the four transactions (20_memory.md R60 to R67), the reset input
(70_reset_and_hazards.md R220), and the pseudo-instructions of the assembler notation
(30_encoding.md R88).
-/

namespace Sys2Proof.Machine

variable {F : Type}

/-! ## Registers -/

/-- What a RegRead returns; none for CMD, which is write-only (20_memory.md R61, R64). -/
def Block.readReg (b : Block F) : Reg → Option (Value F)
  | .cmd => none
  | .status => some (.word b.statusWord)
  | .blocksize => some (.word b.blocksize)
  | .hopsize => some (.word b.hopsize)
  | .samplerate => some (.num b.samplerate)
  | .nch => some (.word b.nch)
  | .inlen0 => some (.word (b.inlen.get .ch0))
  | .inlen1 => some (.word (b.inlen.get .ch1))
  | .ablock => some (.word b.ablock)
  | .ahop => some (.word b.ahop)
  | .afs => some (.num b.afs)
  | .nfft => some (.word b.nfft)
  | .alpha => some (.num b.alpha)

/-- The block after a RegWrite that stores a word; none where the register takes no word from the
host (20_memory.md R61, R64). CMD stores nothing and is not here. -/
def Block.writeWord (b : Block F) (w : W32) : Reg → Option (Block F)
  | .blocksize => some { b with blocksize := w }
  | .hopsize => some { b with hopsize := w }
  | .nch => some { b with nch := w }
  | .inlen0 => some { b with inlen := b.inlen.set .ch0 w }
  | .inlen1 => some { b with inlen := b.inlen.set .ch1 w }
  | .cmd => none
  | .status => none
  | .samplerate => none
  | .ablock => none
  | .ahop => none
  | .afs => none
  | .nfft => none
  | .alpha => none

/-- The block after a RegWrite that stores a number of type F: only SAMPLERATE takes one
(20_memory.md R61, R64). -/
def Block.writeNum (b : Block F) (v : F) : Reg → Option (Block F)
  | .samplerate => some { b with samplerate := v }
  | .cmd => none
  | .status => none
  | .blocksize => none
  | .hopsize => none
  | .nch => none
  | .inlen0 => none
  | .inlen1 => none
  | .ablock => none
  | .ahop => none
  | .afs => none
  | .nfft => none
  | .alpha => none

/-- The block after a RegWrite to a register other than CMD; none is BusError. -/
def Block.writeReg (b : Block F) (r : Reg) : Value F → Option (Block F)
  | .word w => b.writeWord w r
  | .num v => b.writeNum v r

/-! ## Banks -/

/-- The length of a bank: IN_CAP for the input banks, the number of elements otherwise (10_state.md
R37). -/
def Block.bankLength (p : Params F) (b : Block F) (bank : Bank) : Nat :=
  match b.denseBank bank with
  | none => p.inCap
  | some l => l.length

/-- The block after a MemWrite; none is BusError. The host writes only IN0 and IN1, below IN_CAP,
and only numbers of type F (20_memory.md R62, R64). -/
def Block.writeElem (p : Params F) (b : Block F) (bank : Bank) (i : Nat) : Value F → Option (Block F)
  | .word _ => none
  | .num v =>
    match bank with
    | .inp c =>
      if i < p.inCap then some { b with inp := b.inp.set c (memWrite (b.inp.get c) i v) } else none
    | .win => none
    | .xbuf _ => none
    | .spec _ => none
    | .conj _ => none
    | .inst _ => none
    | .acc _ => none
    | .out _ => none

/-- What a MemRead returns, none for BusError. An element of an input bank that nothing has written
reads as `unwritten c i` (20_memory.md R62, R64; 93_implementation_defined.md U6). -/
def Block.readElem (p : Params F) (unwritten : Channel → Nat → F) (b : Block F) (i : Nat) :
    Bank → Option F
  | .inp c => if i < p.inCap then some ((memRead (b.inp.get c) i).getD (unwritten c i)) else none
  | .win => b.win[i]?
  | .xbuf c => (b.xbuf.get c)[i]?
  | .spec c => (b.spec.get c)[i]?
  | .conj c => (b.conj.get c)[i]?
  | .inst k => (b.inst.get k)[i]?
  | .acc k => (b.acc.get k)[i]?
  | .out k => (b.out.get k)[i]?

/-! ## Transactions on the machine -/

/-- The transaction answers r. -/
def State.respond (s : State) (r : Response B64) : State := { s with response := some r }

/-- BusError: the block is as it was (20_memory.md R64, 60_exceptions.md R206; log 13). -/
def State.busError (s : State) : State := s.respond .busError

/-- An answer that is a value, or BusError. -/
def State.answer (s : State) : Option (Value B64) → State
  | some v => s.respond (.value v)
  | none => s.busError

/-- A write that answers Ok with the new block, or BusError. -/
def State.store (s : State) : Option (Block B64) → State
  | some b => (s.withBlock b).respond .ok
  | none => s.busError

/-- The answer of a RegWrite to CMD when the command has ended: Ok, whatever its completion code
(20_memory.md R63). A fault is passed on (log 25). -/
def State.commandEnded : Host.Outcome State Fault Refusal → Host.Outcome State Fault Refusal
  | .next s => .next (s.respond .ok)
  | .fault f => .fault f
  | .refused r => .refused r

/-- RegWrite(CMD, w): decode, run, answer Ok; an illegal word ends with IllegalCommand and changes
nothing else (30_encoding.md R89, R84). -/
def State.writeCmd (s : State) (w : W32) : Host.Outcome State Fault Refusal :=
  match decode w with
  | .ok i => State.commandEnded (exec i s)
  | .error _ => State.commandEnded (.next (s.withBlock (s.block.raise .illegalCommand)))

/-- RegWrite(r, v) (20_memory.md R63, R64). -/
def State.regWrite (s : State) (r : Reg) (v : Value B64) : Host.Outcome State Fault Refusal :=
  match r, v with
  | .cmd, .word w => s.writeCmd w
  | r, v => .next (s.store (s.block.writeReg r v))

/-- The value a host read of an unwritten element of channel c returns: free (log 10). -/
def State.unwritten (s : State) (c : Channel) (i : Nat) : B64 :=
  Config.unwrittenSample s.epoch (channelNumber c) i

/-- A pulse of the reset input: the block as after reset, no transaction answered, one epoch later;
what the host still wants done is its own (70_reset_and_hazards.md R220; log 10, 23). -/
def State.resetPulse (s : State) : State :=
  { s with block := Block.reset 0#64, response := none, epoch := s.epoch + 1 }

/-- One host event on the machine; the transactions are taken whole (20_memory.md R63, R70). -/
def State.takeEvent (s : State) : HostEvent B64 → Host.Outcome State Fault Refusal
  | .regRead n => .next (s.answer ((regOfNumber n).bind s.block.readReg))
  | .regWrite n v =>
    match regOfNumber n with
    | none => .next s.busError
    | some r => s.regWrite r v
  | .memRead n i =>
    .next (s.answer
      (((bankOfNumber n).bind (s.block.readElem params s.unwritten i)).map Value.num))
  | .memWrite n i v =>
    .next (s.store ((bankOfNumber n).bind fun bank => s.block.writeElem params bank i v))
  | .reset => .next s.resetPulse

/-- One step: the oldest pending event is taken; with none pending the block is idle and keeps its
state (70_reset_and_hazards.md R221, 60_exceptions.md R216; log 12). -/
def State.takeNext (s : State) : Host.Outcome State Fault Refusal :=
  match s.pending with
  | [] => .next s
  | e :: rest => ({ s with pending := rest } : State).takeEvent e

/-! ## Pseudo-instructions of the assembler notation -/

/-- `wr CMD` of a command (30_encoding.md R87). -/
def commandWrite (i : Instr) : HostEvent F := .regWrite 0 (.word (encode i))

/-- `setup b, h, fs` (30_encoding.md R88). -/
def pseudoSetup (b h : W32) (fs : F) : List (HostEvent F) :=
  [.regWrite 2 (.word b), .regWrite 3 (.word h), .regWrite 4 (.num fs), commandWrite .config]

/-- The MemWrites of `feed` from element i on. -/
def feedFrom (bank : Nat) : (i : Nat) → List F → List (HostEvent F)
  | _, [] => []
  | i, v :: rest => .memWrite bank i (.num v) :: feedFrom bank (i + 1) rest

/-- `feed c, [v0, ...]`: the samples into INc, their number into INLENc (30_encoding.md R88). -/
def pseudoFeed (c : Channel) (vs : List F) : List (HostEvent F) :=
  feedFrom (channelNumber c) 0 vs
    ++ [.regWrite (6 + channelNumber c) (.word (BitVec.ofNat 32 vs.length))]

/-- `block [...], [...]` (30_encoding.md R88). -/
def pseudoBlock (as bs : List F) : List (HostEvent F) :=
  pseudoFeed .ch0 as ++ pseudoFeed .ch1 bs ++ [.regWrite 5 (.word 2#32), commandWrite .process]

/-- The thirteen step commands of a call, in order (46_process.md R182). -/
def stepCommands : List Instr :=
  [.win 0#8, .win 1#8, .fft 0#8, .fft 1#8, .conj 0#8, .conj 1#8, .cmul 0#8, .cmul 1#8, .cmul 2#8,
   .smooth 0#8, .smooth 1#8, .smooth 2#8, .tick]

/-- `step`: PROCESS spelled as its thirteen step commands (30_encoding.md R88). -/
def pseudoStep : List (HostEvent F) := stepCommands.map commandWrite

end Sys2Proof.Machine
end

