-- ==== Sys2Proof/Machine/Step.lean ====
section
/-!
DEFINITION. One step of the machine, and where it takes its next command from.
-/

namespace Sys2Proof.Machine

/-- One step: the next host event is taken (20_memory.md R63, R70). -/
def step (s : State) : Host.Outcome State Fault Refusal := s.takeNext

/-- The state in which the host's next transaction is RegWrite(CMD, w), w being the row's bits and
zeros above them: the block does not fetch, it runs the word the host writes (10_state.md R38,
R27; log 11). -/
def State.withFetchWord (s : State) (nbits w : Nat) : State :=
  { s with pending := .regWrite 0 (.word (BitVec.ofNat 32 (w % 2 ^ nbits))) :: s.pending }

end Sys2Proof.Machine
end

