-- ==== Sys2Proof/Machine/NumReal.lean ====
section
/-!
DEFINITION. NUM_REAL (00_scope.md R13), the instance the laws of the spec are stated for, the
reference transform (42_fft.md R131) and the laws that the open parameters must satisfy under any
numerics record (40_config.md R106, 42_fft.md R132). Nothing the machine runs uses this file.
-/

namespace Sys2Proof.Machine

/-- NUM_REAL: F is the real numbers, every operation exact, every value finite (00_scope.md R13). The
spec gives no value of a number divided by 0 or of the square root of a negative number there: both
are 0, DESIGN CHOICE (log 27, unsafe where a zero divisor or a negative radicand is admitted; no
configured block has a rate of 0, and no unit takes the root of a negative number). -/
noncomputable def numReal : Num ℝ where
  zero := 0
  one := 1
  two := 2
  half := 1 / 2
  eighth := 1 / 8
  pi := Real.pi
  ofInt := fun n => (n : ℝ)
  add := fun a b => a + b
  sub := fun a b => a - b
  mul := fun a b => a * b
  div := fun a b => a / b
  neg := fun a => -a
  exp := Real.exp
  cos := Real.cos
  sin := Real.sin
  sqrt := Real.sqrt
  isZero := fun a => @decide (a = 0) (Classical.propDecidable _)
  le0 := fun a => @decide (a ≤ 0) (Classical.propDecidable _)
  isFinite := fun _ => true

/-- Xre[k] of the reference transform (42_fft.md R131). -/
noncomputable def dftRe (N : Nat) (x : List ℝ) (k : Nat) : ℝ :=
  ∑ n ∈ Finset.range N, x.getD n 0 * Real.cos (2 * Real.pi * k * n / N)

/-- Xim[k] of the reference transform (42_fft.md R131). -/
noncomputable def dftIm (N : Nat) (x : List ℝ) (k : Nat) : ℝ :=
  -∑ n ∈ Finset.range N, x.getD n 0 * Real.sin (2 * Real.pi * k * n / N)

/-- dft_ref(N, x): the unscaled forward transform with negative exponent, interleaved (42_fft.md
R131). -/
noncomputable def dftRef (N : Nat) (x : List ℝ) : List ℝ :=
  interleave ((List.range N).map fun k => (dftRe N x k, dftIm N x k))

variable {F : Type}

/-- FFT-LEN (42_fft.md R132), at a power of two. -/
def FftLen (fft : Nat → List F → List F) : Prop :=
  ∀ (m : Nat) (x : List F), x.length = 2 ^ m → (fft (2 ^ m) x).length = 2 * 2 ^ m

/-- FFT-ZERO (42_fft.md R132): zeros are transformed to zeros, for N up to 2^top. -/
def FftZero (num : Num F) (top : Nat) (fft : Nat → List F → List F) : Prop :=
  ∀ (m : Nat) (x : List F), m ≤ top → x.length = 2 ^ m → (∀ v ∈ x, num.isZero v = true) →
    ∀ v ∈ fft (2 ^ m) x, num.isZero v = true

/-- FFT-HERM (42_fft.md R132): bin N - k is the conjugate of bin k, and the imaginary parts of bins 0
and N/2 are zeros; N = 2^(m+1). At k = N/2 the rule says that X[N+1] is its own negative, "which
already forces a zero there": that is the last clause, +0 and -0 both being zeros. -/
def FftHerm (num : Num F) (fft : Nat → List F → List F) : Prop :=
  ∀ (m : Nat) (x : List F), x.length = 2 ^ (m + 1) →
    (∀ k, 1 ≤ k → k < 2 ^ (m + 1) →
      elem num (fft (2 ^ (m + 1)) x) (2 * (2 ^ (m + 1) - k))
          = elem num (fft (2 ^ (m + 1)) x) (2 * k) ∧
      (k ≠ 2 ^ m → elem num (fft (2 ^ (m + 1)) x) (2 * (2 ^ (m + 1) - k) + 1)
          = num.neg (elem num (fft (2 ^ (m + 1)) x) (2 * k + 1)))) ∧
    num.isZero (elem num (fft (2 ^ (m + 1)) x) 1) = true ∧
    num.isZero (elem num (fft (2 ^ (m + 1)) x) (2 ^ (m + 1) + 1)) = true

/-- FFT-REF (42_fft.md R132) under NUM_REAL. -/
def FftRef (fft : Nat → List ℝ → List ℝ) : Prop :=
  ∀ (m : Nat) (x : List ℝ), x.length = 2 ^ m → fft (2 ^ m) x = dftRef (2 ^ m) x

/-- The bound of FFT-REF outside NUM_REAL, a function of EPS_FFT, N and the largest input magnitude,
"grows with" all three (42_fft.md R132). -/
def BoundGrows (bound : ℚ≥0 → Nat → ℝ → ℝ) : Prop :=
  ∀ e e' N N' M M', e ≤ e' → N ≤ N' → M ≤ M' → bound e N M ≤ bound e' N' M'

/-- FFT-REF (42_fft.md R132) under a numerics record whose finite numbers have the real values `value`:
on finite inputs up to M in magnitude each element is within the bound of the reference. -/
def FftRefWithin (num : Num F) (value : F → ℝ) (bound : ℚ≥0 → Nat → ℝ → ℝ) (eps : ℚ≥0)
    (fft : Nat → List F → List F) : Prop :=
  ∀ (m : Nat) (x : List F) (M : ℝ), x.length = 2 ^ m →
    (∀ v ∈ x, num.isFinite v = true ∧ |value v| ≤ M) → ∀ i, i < 2 * 2 ^ m →
    |value (elem num (fft (2 ^ m) x) i) - (dftRef (2 ^ m) (x.map value)).getD i 0|
      ≤ bound eps (2 ^ m) M

/-- The requirement on a window generator under NUM_REAL: b coefficients whose sum of squares, scaled
by b / N, is 1 (40_config.md R106). -/
def WinNormalised (winGen : Nat → Nat → List ℝ) : Prop :=
  ∀ b, 2 ≤ b → (winGen b (nextPow2 b)).length = b ∧
    (b : ℝ) / (nextPow2 b : ℝ) * ((winGen b (nextPow2 b)).map fun w => w ^ 2).sum = 1

/-- The requirement on a window generator under a numerics record whose finite numbers have the real
values `value`, for block sizes up to `top`: b finite coefficients whose sum of squares, scaled by
b / N, is 1 within `eps` (40_config.md R106, 46_process.md R190). -/
def WinNormalisedWithin (num : Num F) (value : F → ℝ) (eps : ℚ≥0) (top : Nat)
    (winGen : Nat → Nat → List F) : Prop :=
  ∀ b, 2 ≤ b → b ≤ top → (winGen b (nextPow2 b)).length = b ∧
    (∀ w ∈ winGen b (nextPow2 b), num.isFinite w = true) ∧
    |(b : ℝ) / (nextPow2 b : ℝ) * ((winGen b (nextPow2 b)).map fun w => value w ^ 2).sum - 1| ≤ eps

/-- What 40_config.md R106 and 42_fft.md R132 require of the open parameters, the tolerances being
arguments (93_implementation_defined.md U9). That winGen depends on b and N alone (R106 (c)) and fft
on N and the input alone (FFT-FUN) is said by their types. -/
structure Params.Lawful (p : Params F) (value : F → ℝ) (bound : ℚ≥0 → Nat → ℝ → ℝ) : Prop where
  window : WinNormalisedWithin p.num value p.epsWin p.inCap p.winGen
  fft_len : FftLen p.fft
  fft_zero : FftZero p.num p.log2NfftMax p.fft
  fft_herm : FftHerm p.num p.fft
  bound_grows : BoundGrows bound
  fft_ref : FftRefWithin p.num value bound p.epsFft p.fft

/-- The rational value of a finite binary64 datum. -/
def f64Value (x : B64) : ℚ := (f64Units x : ℚ) / 2 ^ 1074

end Sys2Proof.Machine
end

