-- ==== Sys2Proof/Safety.lean ====
section
/-!
DEFINITION. What the claims call a good state and a safe run: the lengths of the banks (10_state.md
R37), the invariants of the block (10_state.md R42, R22, R23, R24, R41), readiness of the input
(70_reset_and_hazards.md R227), and lists of commands run one after another.
-/

namespace Sys2Proof.Machine

variable {F : Type}

/-- The lengths of WIN, of XBUF, of SPEC, CONJ, INST and ACC, of OUT0, and of OUT1 and OUT2. -/
def Block.lengthsAre (b : Block F) (lw lx ls lo la : Nat) : Bool :=
  decide (b.win.length = lw)
    && decide (b.xbuf.ch0.length = lx) && decide (b.xbuf.ch1.length = lx)
    && decide (b.spec.ch0.length = ls) && decide (b.spec.ch1.length = ls)
    && decide (b.conj.ch0.length = ls) && decide (b.conj.ch1.length = ls)
    && decide (b.inst.cross.length = ls) && decide (b.inst.auto0.length = ls)
    && decide (b.inst.auto1.length = ls)
    && decide (b.acc.cross.length = ls) && decide (b.acc.auto0.length = ls)
    && decide (b.acc.auto1.length = ls)
    && decide (b.out.cross.length = lo) && decide (b.out.auto0.length = la)
    && decide (b.out.auto1.length = la)

/-- Every dense bank has the length of 10_state.md R20 while configured, and 0 while not (R37). -/
def Block.sized (b : Block F) : Bool :=
  if b.configured then
    b.lengthsAre b.blockLen b.fftLen (2 * b.fftLen) (b.fftLen + 2) (b.fftLen / 2 + 1)
  else b.lengthsAre 0 0 0 0 0

/-- What holds of the registers, the window and the outputs while an estimator exists (10_state.md
R22, R23, R24, R30, R42; 45_decimate_emit.md R164). -/
structure Block.EstimatorOk (p : Params F) (b : Block F) : Prop where
  hop_positive : 0 < b.ahop.toInt
  hop_le_block : b.ahop.toInt ≤ b.ablock.toInt
  block_ge_two : 2 ≤ b.ablock.toInt
  block_le_cap : b.ablock.toInt ≤ ((p.inCap : Nat) : Int)
  rate_finite : p.num.isFinite b.afs = true
  rate_positive : p.num.le0 b.afs = false
  nfft_eq : b.fftLen = nextPow2 b.blockLen
  alpha_eq : b.alpha = alphaOf p.num b.ablock.toInt b.ahop.toInt b.afs
  win_eq : b.win = firstElems p.num b.blockLen (p.winGen b.blockLen b.fftLen)
  out_dc_imag : b.out.cross[1]? = some p.num.zero
  out_nyquist_imag : b.out.cross[b.fftLen + 1]? = some p.num.zero
  out_gap0 : 4 ≤ b.fftLen → b.out.auto0[b.fftLen / 2 - 1]? = some p.num.zero
  out_gap1 : 4 ≤ b.fftLen → b.out.auto1[b.fftLen / 2 - 1]? = some p.num.zero

/-- What holds of the registers while no estimator exists (10_state.md R41, R22, R23, R24). -/
structure Block.NoEstimator (p : Params F) (b : Block F) : Prop where
  no_output : b.outValid = false
  count_zero : b.cnt = 0#4
  ablock_zero : b.ablock = 0#32
  ahop_zero : b.ahop = 0#32
  afs_zero : b.afs = p.num.zero
  nfft_zero : b.nfft = 0#32
  alpha_zero : b.alpha = p.num.zero

/-- The invariant of the block (10_state.md R42 with R22 to R25, R29, R37, R41): the counter below
10, the input memory canonical and inside IN_CAP, the bank lengths, and the registers of the two
cases. -/
structure Block.Inv (p : Params F) (b : Block F) : Prop where
  count_lt : b.cnt.toNat < 10
  input_canonical : ∀ c, Memory.wf (b.inp.get c) = true
  input_bounded : ∀ c, ∀ e ∈ b.inp.get c, e.1 < p.inCap
  lengths : b.sized = true
  configured_ok : b.configured = true → b.EstimatorOk p
  unconfigured_ok : b.configured = false → b.NoEstimator p

/-- The invariant of the machine: that of its block, at the machine's parameters. -/
def State.Inv (s : State) : Prop := s.block.Inv params

/-- The host has written every sample a call reads from channel c (70_reset_and_hazards.md R227). -/
def Block.rowWritten (b : Block F) (c : Channel) : Prop :=
  ∀ n, n < b.blockLen → (memRead (b.inp.get c) n).isSome = true

/-- A call would be accepted and find its samples (70_reset_and_hazards.md R224). -/
structure Block.CallReady (b : Block F) : Prop where
  configured : b.configured = true
  channels : b.nch = 2#32
  row0_long : b.ablock.toInt ≤ (b.inlen.ch0.toNat : Int)
  row1_long : b.ablock.toInt ≤ (b.inlen.ch1.toNat : Int)
  row0_written : b.rowWritten .ch0
  row1_written : b.rowWritten .ch1

/-- Commands run one after another, stopping at the first fault or refusal. -/
def execAll : List Instr → State → Host.Outcome State Fault Refusal
  | [], s => .next s
  | i :: rest, s =>
    match exec i s with
    | .next t => execAll rest t
    | .fault f => .fault f
    | .refused r => .refused r

/-- A run of the machine that never stops: every number of steps ends in a next state. -/
def SafeRun (s : State) : Prop := ∀ n, ∃ t, Host.Core.run Sys2Proof.core n s = .next t

end Sys2Proof.Machine
end

