-- ==== Sys2Proof/Certificates/Slice0/Obligations.lean ====
section
/-!
DEFINITION. The statements for the provers. Each docstring names the rules of spec/ it formalises.
What a rule leaves to the model is said there with the log entry.
-/

open Sys2Proof Sys2Proof.Machine

namespace Sys2Proof.Claims

/-! ## Words -/

/-- A word is illegal: bits 31:16 are not 0, OP (bits 7:0) is none of the nine, or ARG (bits 15:8) is
out of the range of OP's format (30_encoding.md R84). -/
def wordIllegal (w : W32) : Prop :=
  w.toNat / 65536 ≠ 0 ∨
  w.toNat % 256 ∉ [0x00, 0x01, 0x02, 0x10, 0x11, 0x12, 0x13, 0x14, 0x15] ∨
  (w.toNat % 256 ∈ [0x00, 0x01, 0x02, 0x15] ∧ w.toNat / 256 % 256 ≠ 0) ∨
  (w.toNat % 256 ∈ [0x10, 0x11, 0x12] ∧ 2 ≤ w.toNat / 256 % 256) ∨
  (w.toNat % 256 ∈ [0x13, 0x14] ∧ 3 ≤ w.toNat / 256 % 256)

/-- The 16 legal words (30_encoding.md R83, R84). -/
def legalWords : List W32 :=
  [0x00000000#32, 0x00000001#32, 0x00000002#32, 0x00000010#32, 0x00000110#32, 0x00000011#32,
   0x00000111#32, 0x00000012#32, 0x00000112#32, 0x00000013#32, 0x00000113#32, 0x00000213#32,
   0x00000014#32, 0x00000114#32, 0x00000214#32, 0x00000015#32]

/-! ## Host transactions -/

/-- What a read of register n returns, by its number (20_memory.md R61); none is BusError. -/
def registerValue (b : Block B64) : Nat → Option (Value B64)
  | 1 => some (.word b.statusWord)
  | 2 => some (.word b.blocksize)
  | 3 => some (.word b.hopsize)
  | 4 => some (.num b.samplerate)
  | 5 => some (.word b.nch)
  | 6 => some (.word b.inlen.ch0)
  | 7 => some (.word b.inlen.ch1)
  | 8 => some (.word b.ablock)
  | 9 => some (.word b.ahop)
  | 10 => some (.num b.afs)
  | 11 => some (.word b.nfft)
  | 12 => some (.num b.alpha)
  | _ => none

/-- The dense bank with number n (20_memory.md R62). -/
def bankElems (b : Block B64) : Nat → Option (List B64)
  | 2 => some b.win
  | 3 => some b.xbuf.ch0
  | 4 => some b.xbuf.ch1
  | 5 => some b.spec.ch0
  | 6 => some b.spec.ch1
  | 7 => some b.conj.ch0
  | 8 => some b.conj.ch1
  | 9 => some b.inst.cross
  | 10 => some b.inst.auto0
  | 11 => some b.inst.auto1
  | 12 => some b.acc.cross
  | 13 => some b.acc.auto0
  | 14 => some b.acc.auto1
  | 15 => some b.out.cross
  | 16 => some b.out.auto0
  | 17 => some b.out.auto1
  | _ => none

/-- The length of bank n by the table of 20_memory.md R62, IN_CAP being 2^LOG2_NFFT_MAX (00_scope.md
R8). -/
def tableLength (b : Block B64) (n : Nat) : Nat :=
  if n ≤ 1 then 2 ^ Config.log2NfftMax
  else if b.configured = false then 0
  else if n = 2 then b.blockLen
  else if n ≤ 4 then b.fftLen
  else if n ≤ 14 then 2 * b.fftLen
  else if n = 15 then b.fftLen + 2
  else b.fftLen / 2 + 1

/-- The value carries a number of type F, not a word. -/
def isNum : Value B64 → Prop
  | .word _ => False
  | .num _ => True

/-- The cases of 20_memory.md R64 in which a transaction responds BusError. -/
def busErrorCase (b : Block B64) : HostEvent B64 → Prop
  | .regRead n => 12 < n ∨ n = 0
  | .regWrite n v =>
    12 < n ∨ n ∈ [1, 8, 9, 10, 11, 12] ∨ (n = 4 ∧ ¬isNum v) ∨ (n ≠ 4 ∧ isNum v)
  | .memRead k i => 17 < k ∨ tableLength b k ≤ i
  | .memWrite k i v => 17 < k ∨ k ∉ [0, 1] ∨ tableLength b k ≤ i ∨ ¬isNum v
  | .reset => False

/-- The event is a RegRead or a MemRead. -/
def isRead : HostEvent B64 → Prop
  | .regRead _ => True
  | .memRead _ _ => True
  | .regWrite _ _ => False
  | .memWrite _ _ _ => False
  | .reset => False

/-! ## Commands -/

/-- A check of 40_config.md R103 fails on the staging registers. -/
def configInvalid (b : Block B64) : Prop :=
  b.blocksize.toInt ≤ 0 ∨ b.hopsize.toInt ≤ 0 ∨ b.blocksize.toInt < b.hopsize.toInt ∨
  f64IsFinite b.samplerate = false ∨ f64Le0 b.samplerate = true

/-- The block that CONFIG leaves when it fails with code e (40_config.md R109; 10_state.md R41, last
column). -/
def unbuilt (b : Block B64) (e : Completion) : Block B64 :=
  { b with
    configured := false, outValid := false, cnt := 0#4, err := e
    ablock := 0#32, ahop := 0#32, afs := 0#64, nfft := 0#32, alpha := 0#64
    win := [], xbuf := ⟨[], []⟩, spec := ⟨[], []⟩, conj := ⟨[], []⟩
    inst := ⟨[], [], []⟩, acc := ⟨[], [], []⟩, out := ⟨[], [], []⟩ }

/-- n elements of +0. -/
def zeros (n : Nat) : List B64 := List.replicate n 0#64

/-- The block that CONFIG leaves when it succeeds, N being nextPow2 of the block size (40_config.md
R108; 10_state.md R41, middle column). The window is the default generator's (log 6). -/
def built (b : Block B64) (N : Nat) : Block B64 :=
  { b with
    configured := true, outValid := false, cnt := 0#4, err := .ok
    ablock := b.blocksize, ahop := b.hopsize, afs := b.samplerate, nfft := BitVec.ofNat 32 N
    alpha := f64Exp (f64Neg (f64Div (f64OfInt (b.blocksize.toInt - b.hopsize.toInt))
      (f64Mul b.samplerate f64Eighth)))
    win := winDefault numB64 b.blocksize.toInt.toNat N
    xbuf := ⟨zeros N, zeros N⟩
    spec := ⟨zeros (2 * N), zeros (2 * N)⟩
    conj := ⟨zeros (2 * N), zeros (2 * N)⟩
    inst := ⟨zeros (2 * N), zeros (2 * N), zeros (2 * N)⟩
    acc := ⟨zeros (2 * N), zeros (2 * N), zeros (2 * N)⟩
    out := ⟨zeros (N + 2), zeros (N / 2 + 1), zeros (N / 2 + 1)⟩ }

/-- The command word's operand for channel c. -/
def chanArg (c : Channel) : BitVec 8 := BitVec.ofNat 8 (channelNumber c)

/-- The command word's operand for spectrum k. -/
def specArg (k : Spectrum) : BitVec 8 := BitVec.ofNat 8 (spectrumNumber k)

/-- l is channel c windowed and zero-padded: sample times coefficient below B, +0 from B to N - 1
(41_window.md R120). -/
def isWindowedRow (b : Block B64) (c : Channel) (l : List B64) : Prop :=
  l.length = b.fftLen ∧
  (∀ n, n < b.blockLen → ∃ x w, memRead (b.inp.get c) n = some x ∧ b.win[n]? = some w ∧
    l[n]? = some (f64Mul x w)) ∧
  ∀ n, b.blockLen ≤ n → n < b.fftLen → l[n]? = some 0#64

/-- l is the spectrum S of N bins with every imaginary part negated (43_cmac.md R140). -/
def isConjugate (N : Nat) (S l : List B64) : Prop :=
  l.length = 2 * N ∧
  ∀ k, k < N → ∃ re im, S[2 * k]? = some re ∧ S[2 * k + 1]? = some im ∧
    l[2 * k]? = some re ∧ l[2 * k + 1]? = some (f64Neg im)

/-- l is the product of P and Q bin by bin, all N bins (43_cmac.md R141, R142, R143). -/
def isProduct (N : Nat) (P Q l : List B64) : Prop :=
  l.length = 2 * N ∧
  ∀ i, i < N → ∃ a b c d,
    P[2 * i]? = some a ∧ P[2 * i + 1]? = some b ∧ Q[2 * i]? = some c ∧ Q[2 * i + 1]? = some d ∧
    l[2 * i]? = some (f64Sub (f64Mul a c) (f64Mul b d)) ∧
    l[2 * i + 1]? = some (f64Add (f64Mul a d) (f64Mul b c))

/-- l is the bank A smoothed with the input I (44_smooth.md R150). -/
def isSmoothed (N : Nat) (alpha : B64) (A I l : List B64) : Prop :=
  l.length = 2 * N ∧
  ∀ i, i < 2 * N → ∃ y x, A[i]? = some y ∧ I[i]? = some x ∧
    l[i]? = some (f64Add (f64Mul alpha y) (f64Mul (f64Sub f64One alpha) x))

/-- The row l is the one-sided cross-spectrum of A over the row `old` (45_decimate_emit.md R161,
R162, R164). -/
def isCrossRow (N : Nat) (fs : B64) (A old l : List B64) : Prop :=
  l.length = N + 2 ∧
  l[0]? = A[0]?.map (fun v => f64Div v fs) ∧
  l[N]? = A[N]?.map (fun v => f64Div v fs) ∧
  (∀ i, 2 ≤ i → i < N → l[i]? = A[i]?.map (fun v => f64Div v (f64Mul f64Two fs))) ∧
  l[1]? = old[1]? ∧ l[N + 1]? = old[N + 1]?

/-- The row l is the one-sided auto-spectrum of A over the row `old` (45_decimate_emit.md R161, R163,
R164). -/
def isAutoRow (N : Nat) (fs : B64) (A old l : List B64) : Prop :=
  l.length = N / 2 + 1 ∧
  l[0]? = A[0]?.map (fun v => f64Div v fs) ∧
  l[N / 2]? = A[N - 1]?.map (fun v => f64Div v fs) ∧
  (∀ i, 1 ≤ i → i < N / 2 - 1 → l[i]? = A[2 * i]?.map (fun v => f64Div v (f64Mul f64Two fs))) ∧
  (4 ≤ N → l[N / 2 - 1]? = old[N / 2 - 1]?)

/-- The three output banks are an emission of the accumulator over the old ones. -/
def isEmission (N : Nat) (fs : B64) (acc old out : PerSpectrum (List B64)) : Prop :=
  isCrossRow N fs acc.cross old.cross out.cross ∧
  isAutoRow N fs acc.auto0 old.auto0 out.auto0 ∧
  isAutoRow N fs acc.auto1 old.auto1 out.auto1

/-- A block with an estimator whose banks have their lengths and whose sizes are those of a
configured block (10_state.md R42: B ≤ N, 2 ≤ N). -/
def ready (b : Block B64) : Prop :=
  b.configured = true ∧ b.sized = true ∧ b.blockLen ≤ b.fftLen ∧ 2 ≤ b.fftLen

/-! ## Runs -/

/-- The state after the host has given the input of the next call: samples, lengths, and NCH = 2
(70_reset_and_hazards.md R224). -/
def fed (s : State) (inp : PerChannel (Memory B64)) (inlen : PerChannel W32) : State :=
  { s with block := { s.block with inp := inp, inlen := inlen, nch := 2#32 } }

/-- n calls of PROCESS one after another, over any parameters. -/
def calls {F : Type} (p : Params F) : Nat → Block F → Except Fault (Block F)
  | 0, b => .ok b
  | n + 1, b =>
    match calls p n b with
    | .ok c => runProcess p c
    | .error f => .error f

/-- SMOOTH k once for each of the given contents of INSTk, in order. -/
def smoothings {F : Type} (p : Params F) (k : Spectrum) (b : Block F) (inputs : List (List F)) :
    Block F :=
  inputs.foldl (fun b I => runSmooth p (specArg k) (b.setInst k I)) b

/-- Parameters over NUM_REAL, under which the laws are exact and need no tolerance
(93_implementation_defined.md U9). -/
noncomputable def realParams (winGen : Nat → Nat → List ℝ) (fft : Nat → List ℝ → List ℝ)
    (L : Nat) (hL : 1 ≤ L ∧ L ≤ 30) : Params ℝ :=
  { num := numReal, winGen := winGen, fft := fft, log2NfftMax := L, size_legal := hL
    epsFft := 0, epsWin := 0 }

/-- Element i of bank k of three. -/
noncomputable def realElem (bank : PerSpectrum (List ℝ)) (k : Spectrum) (i : Nat) : ℝ :=
  (bank.get k).getD i 0

/-- The symmetry of the accumulator under NUM_REAL (46_process.md R191). -/
def accSymmetric (N : Nat) (acc : PerSpectrum (List ℝ)) : Prop :=
  (∀ k, k = .auto0 ∨ k = .auto1 → ∀ i, i < N →
    realElem acc k (2 * i + 1) = 0 ∧ 0 ≤ realElem acc k (2 * i)) ∧
  (∀ i, 1 ≤ i → i < N →
    realElem acc .cross (2 * (N - i)) = realElem acc .cross (2 * i) ∧
    realElem acc .cross (2 * (N - i) + 1) = -realElem acc .cross (2 * i + 1)) ∧
  realElem acc .cross 1 = 0 ∧ realElem acc .cross (N + 1) = 0

/-- r is the exact value x correctly rounded to nearest, ties to even (00_scope.md R13): when r is
finite, x is below half a unit of the last place above the largest finite datum, no finite datum is
nearer, and of two equally near values r is the one whose last bit is 0; when it is not, r is the
infinity of the sign of x, and x is not below that. -/
def correctlyRounded (x : ℝ) (r : B64) : Prop :=
  (f64IsFinite r = true → |x| < 2 ^ 1024 - 2 ^ 970 ∧ ∀ z, f64IsFinite z = true →
    |(f64Value r : ℝ) - x| ≤ |(f64Value z : ℝ) - x| ∧
    (|(f64Value r : ℝ) - x| = |(f64Value z : ℝ) - x| → f64Value z ≠ f64Value r →
      r.toNat % 2 = 0)) ∧
  (f64IsFinite r = false → f64IsInf r = true ∧ (f64Sign r = true ↔ x < 0) ∧
    (2 : ℝ) ^ 1024 - 2 ^ 970 ≤ |x|)

/-- A move from y to y' towards x that does not pass it. -/
def movesToward (x y y' : ℝ) : Prop :=
  (y ≤ x → y ≤ y' ∧ y' ≤ x) ∧ (x ≤ y → x ≤ y' ∧ y' ≤ y)

end Sys2Proof.Claims

open Sys2Proof.Claims

/-! ## Encoding -/

/-- Decoding the word of a well-formed command gives the command back (30_encoding.md R81, R82, R83). -/
def Obligations.EncodedCommandsDecodeBack : Prop :=
  ∀ i : Instr, i.wellFormed = true → decode (encode i) = .ok i

/-- A word that decodes is the word of the well-formed command it decodes to: no two words decode to
one command (30_encoding.md R81, R83). -/
def Obligations.DecodedWordsEncodeBack : Prop :=
  ∀ (w : W32) (i : Instr), decode w = .ok i → i.wellFormed = true ∧ encode i = w

/-- Illegal words (30_encoding.md R84, 60_exceptions.md R204): exactly 16 words are legal, every word
is either legal or illegal by the three conditions, and an illegal word written to CMD changes
nothing but STATUS.ERR, which takes code 4, configured or not; the transaction answers Ok. -/
def Obligations.IllegalWordsChangeOnlyTheCode : Prop :=
  legalWords.length = 16 ∧ legalWords.Nodup ∧
  (∀ w : W32, w ∈ legalWords ↔ ¬wordIllegal w) ∧
  (∀ w : W32, (∃ i, decode w = .ok i) ↔ ¬wordIllegal w) ∧
  (∀ (s : State) (w : W32) (rest : List (HostEvent B64)),
    wordIllegal w → s.pending = .regWrite 0 (.word w) :: rest →
    step s = .next { s with
      block := { s.block with err := .illegalCommand }, pending := rest, response := some .ok }) ∧
  completionCode .illegalCommand = 4#4

/-- Words of the opcode map, written out bit by bit, decode to their commands (30_encoding.md R83). -/
def Obligations.WordsOfTheOpcodeMapDecode : Prop :=
  decode 0x00000000#32 = .ok .nop ∧ decode 0x00000001#32 = .ok .config ∧
  decode 0x00000002#32 = .ok .process ∧ decode 0x00000110#32 = .ok (.win 1#8) ∧
  decode 0x00000011#32 = .ok (.fft 0#8) ∧ decode 0x00000112#32 = .ok (.conj 1#8) ∧
  decode 0x00000213#32 = .ok (.cmul 2#8) ∧ decode 0x00000114#32 = .ok (.smooth 1#8) ∧
  decode 0x00000015#32 = .ok .tick

/-- A command term whose operand is out of its format's range ends with IllegalCommand and changes
nothing else. The model's choice for terms no word decodes to (log 17), after 41_window.md R120
"IllegalCommand when c is not 0 or 1". -/
def Obligations.OperandOutOfRangeEndsIllegal : Prop :=
  ∀ (i : Instr) (s : State), i.wellFormed = false →
    exec i s = .next { s with block := { s.block with err := .illegalCommand } }

/-! ## The step and the host's transactions -/

/-- When the oldest host event is RegWrite(CMD, w) and w decodes to i, the step is i on the state with
that event taken, and the transaction then answers Ok (30_encoding.md R89, 20_memory.md R63). -/
def Obligations.StepRunsTheDecodedCommand : Prop :=
  ∀ (s : State) (w : W32) (i : Instr) (rest : List (HostEvent B64)),
    s.pending = .regWrite 0 (.word w) :: rest → decode w = .ok i →
    step s = (match exec i { s with pending := rest } with
      | .next t => .next { t with response := some .ok }
      | .fault f => .fault f
      | .refused r => .refused r)

/-- A word placed where the step takes its next command runs as that command (10_state.md R27, R38;
log 11). -/
def Obligations.PlacedWordRunsNext : Prop :=
  ∀ (s : State) (i : Instr), i.wellFormed = true →
    step (s.withFetchWord 32 (encode i).toNat) = (match exec i s with
      | .next t => .next { t with response := some .ok }
      | .fault f => .fault f
      | .refused r => .refused r)

/-- With no transaction pending the block keeps its state (60_exceptions.md R216 "between commands the
block is idle and keeps all its state"; log 12). -/
def Obligations.IdleBlockKeepsItsState : Prop :=
  ∀ s : State, s.pending = [] → step s = .next s

/-- STATUS as read by the host: CONFIGURED in bit 0, OUT_VALID in bit 1, the code in bits 7:4, the
counter in bits 11:8 and zero elsewhere; the level outputs are its OUT_VALID and ERR ≠ 0 (10_state.md
R26, 60_exceptions.md R210). -/
def Obligations.StatusReadsItsFieldsAndZeros : Prop :=
  ∀ (s : State) (rest : List (HostEvent B64)), s.pending = .regRead 1 :: rest →
    ∃ w : W32, step s = .next { s with pending := rest, response := some (.value (.word w)) } ∧
      w.toNat = s.block.configured.toNat + 2 * s.block.outValid.toNat
        + 16 * (completionCode s.block.err).toNat + 256 * s.block.cnt.toNat ∧
      (s.block.outValidPin = true ↔ w.toNat / 2 % 2 = 1) ∧
      (s.block.errPin = true ↔ w.toNat / 16 % 16 ≠ 0)

/-- RegRead returns the register with that number and changes nothing (20_memory.md R61, R63, R67). -/
def Obligations.RegReadReturnsTheRegister : Prop :=
  ∀ (s : State) (n : Nat) (rest : List (HostEvent B64)), s.pending = .regRead n :: rest →
    step s = .next { s with
      pending := rest
      response := some (match registerValue s.block n with
        | some v => .value v
        | none => .busError) }

/-- RegWrite stores the value in the six registers the host may write, and nothing else changes
(20_memory.md R61, R63, R67). -/
def Obligations.RegWriteStoresTheValue : Prop :=
  ∀ (s : State) (w : W32) (v : B64) (rest : List (HostEvent B64)),
    (s.pending = .regWrite 2 (.word w) :: rest → step s = .next { s with
      block := { s.block with blocksize := w }, pending := rest, response := some .ok }) ∧
    (s.pending = .regWrite 3 (.word w) :: rest → step s = .next { s with
      block := { s.block with hopsize := w }, pending := rest, response := some .ok }) ∧
    (s.pending = .regWrite 4 (.num v) :: rest → step s = .next { s with
      block := { s.block with samplerate := v }, pending := rest, response := some .ok }) ∧
    (s.pending = .regWrite 5 (.word w) :: rest → step s = .next { s with
      block := { s.block with nch := w }, pending := rest, response := some .ok }) ∧
    (s.pending = .regWrite 6 (.word w) :: rest → step s = .next { s with
      block := { s.block with inlen := ⟨w, s.block.inlen.ch1⟩ }
      pending := rest, response := some .ok }) ∧
    (s.pending = .regWrite 7 (.word w) :: rest → step s = .next { s with
      block := { s.block with inlen := ⟨s.block.inlen.ch0, w⟩ }
      pending := rest, response := some .ok })

/-- MemRead returns the element inside the bank, BusError at or above its length, and changes nothing
(20_memory.md R62, R63, R64, R67). In IN0 and IN1, whose length is IN_CAP (the default, log 8), an
element that has been written is the answer, and one that has not is answered with some value, the
same for the same element until a reset (93_implementation_defined.md U6; log 9, log 10). -/
def Obligations.MemReadReturnsTheElement : Prop :=
  (∀ (s : State) (n i : Nat) (l : List B64) (rest : List (HostEvent B64)),
    s.pending = .memRead n i :: rest → bankElems s.block n = some l →
    step s = .next { s with
      pending := rest
      response := some (match l[i]? with
        | some v => .value (.num v)
        | none => .busError) }) ∧
  (∀ (s : State) (c : Channel) (i : Nat) (v : B64) (rest : List (HostEvent B64)),
    s.pending = .memRead (channelNumber c) i :: rest → i < 2 ^ Config.log2NfftMax →
    memRead (s.block.inp.get c) i = some v →
    step s = .next { s with pending := rest, response := some (.value (.num v)) }) ∧
  (∀ (epoch : Nat) (c : Channel) (i : Nat), ∃ v : B64,
    ∀ (s : State) (rest : List (HostEvent B64)),
      s.epoch = epoch → s.pending = .memRead (channelNumber c) i :: rest →
      i < 2 ^ Config.log2NfftMax → memRead (s.block.inp.get c) i = none →
      step s = .next { s with pending := rest, response := some (.value (.num v)) }) ∧
  ∀ (s : State) (c : Channel) (i : Nat) (rest : List (HostEvent B64)),
    s.pending = .memRead (channelNumber c) i :: rest → 2 ^ Config.log2NfftMax ≤ i →
    step s = .next { s with pending := rest, response := some .busError }

/-- MemWrite to IN0 or IN1 below IN_CAP stores the element: a later MemRead returns it, every other
element of both banks is as before, the canonical form is kept, and nothing else changes
(20_memory.md R62, R63; 10_state.md R29). IN_CAP is the default 65536, the model's choice (log 8), and
so is the canonical form (log 9). -/
def Obligations.MemWriteStoresTheSample : Prop :=
  ∀ (s : State) (c : Channel) (i : Nat) (v : B64) (rest : List (HostEvent B64)),
    i < 65536 → s.pending = .memWrite (channelNumber c) i (.num v) :: rest →
    ∃ m : Memory B64,
      step s = .next { s with
        block := { s.block with inp := s.block.inp.set c m }
        pending := rest, response := some .ok } ∧
      memRead m i = some v ∧
      (∀ j, j ≠ i → memRead m j = memRead (s.block.inp.get c) j) ∧
      (Memory.wf (s.block.inp.get c) = true → Memory.wf m = true) ∧
      ∀ rest', step { s with
          block := { s.block with inp := s.block.inp.set c m }
          pending := .memRead (channelNumber c) i :: rest' }
        = .next { s with
          block := { s.block with inp := s.block.inp.set c m }
          pending := rest', response := some (.value (.num v)) }

/-- A transaction that ends responds BusError in exactly the cases of 20_memory.md R64, and then the
block is as it was; in every other case it succeeds. The lengths are those of the table R62; `sized` is the invariant
10_state.md R37. -/
def Obligations.BusErrorExactlyInTheListedCases : Prop :=
  ∀ (s t : State) (e : HostEvent B64) (rest : List (HostEvent B64)),
    s.block.sized = true → s.pending = e :: rest → step s = .next t →
    (t.response = some .busError ↔ busErrorCase s.block e) ∧
    (busErrorCase s.block e → t.block = s.block ∧ t.pending = rest ∧ t.epoch = s.epoch) ∧
    (¬busErrorCase s.block e → e ≠ .reset →
      t.response = some .ok ∨ ∃ v, t.response = some (.value v))

/-- Reads have no side effect and always complete: only the answer and the list of pending events
change (20_memory.md R67). -/
def Obligations.HostReadsChangeNothing : Prop :=
  ∀ (s : State) (e : HostEvent B64) (rest : List (HostEvent B64)),
    isRead e → s.pending = e :: rest →
    ∃ r, step s = .next { s with pending := rest, response := some r }

/-- A reset pulse leaves every state element at its value after reset: STATUS 0, all registers 0 or
+0, banks 2 to 17 empty, and nothing written in IN0 and IN1 (70_reset_and_hazards.md R220,
10_state.md R41). That unwritten elements are unlisted is the model's choice (log 9), and so is that
what the host still has pending survives the pulse (log 23). -/
def Obligations.ResetPulseLeavesTheResetState : Prop :=
  ∀ (s : State) (rest : List (HostEvent B64)), s.pending = .reset :: rest →
    ∃ t, step s = .next t ∧ t.block = State.reset.block ∧ t.pending = rest ∧
      t.block.statusWord = 0#32 ∧ t.block.configured = false ∧ t.block.outValid = false ∧
      t.block.err = .ok ∧ t.block.cnt = 0#4 ∧
      t.block.blocksize = 0#32 ∧ t.block.hopsize = 0#32 ∧ t.block.samplerate = 0#64 ∧
      t.block.nch = 0#32 ∧ t.block.inlen = ⟨0#32, 0#32⟩ ∧
      t.block.ablock = 0#32 ∧ t.block.ahop = 0#32 ∧ t.block.afs = 0#64 ∧
      t.block.nfft = 0#32 ∧ t.block.alpha = 0#64 ∧
      (∀ n l, bankElems t.block n = some l → l = []) ∧
      (∀ c i, memRead (t.block.inp.get c) i = none)

/-! ## Errors -/

/-- The completion codes of the six outcomes; codes 6 to 15 are never produced (60_exceptions.md
R200). -/
def Obligations.CompletionCodesAreTheTable : Prop :=
  completionCode .ok = 0#4 ∧ completionCode .configurationError = 1#4 ∧
  completionCode .invalidInput = 2#4 ∧ completionCode .notConfigured = 3#4 ∧
  completionCode .illegalCommand = 4#4 ∧ completionCode .capacityError = 5#4 ∧
  ∀ e, (completionCode e).toNat < 6

/-- While CONFIGURED is 0 every legal command but NOP and CONFIG ends with NotConfigured and changes
nothing but STATUS.ERR (10_state.md R43, 60_exceptions.md R203). -/
def Obligations.UnconfiguredBlockRunsOnlyNopAndConfig : Prop :=
  ∀ (i : Instr) (s : State), i.wellFormed = true → i ≠ .nop → i ≠ .config →
    s.block.configured = false →
    exec i s = .next { s with block := { s.block with err := .notConfigured } }

/-- InvalidInput: PROCESS raises it exactly when NCH is not 2 or a row is shorter than B, WIN c exactly
when NCH is not 2 or its own row is shorter; nothing changes but STATUS.ERR, which takes code 2
(60_exceptions.md R202). -/
def Obligations.InvalidInputChangesOnlyTheCode : Prop :=
  (∀ s : State, s.block.configured = true →
    (s.block.nch ≠ 2#32 ∨ (s.block.inlen.ch0.toNat : Int) < s.block.ablock.toInt ∨
      (s.block.inlen.ch1.toNat : Int) < s.block.ablock.toInt) →
    exec .process s = .next { s with block := { s.block with err := .invalidInput } }) ∧
  (∀ (s : State) (c : Channel), s.block.configured = true →
    (s.block.nch ≠ 2#32 ∨ ((s.block.inlen.get c).toNat : Int) < s.block.ablock.toInt) →
    exec (.win (chanArg c)) s = .next { s with block := { s.block with err := .invalidInput } }) ∧
  (∀ (i : Instr) (s t : State), exec i s = .next t → t.block.err = .invalidInput →
    s.block.configured = true ∧ (i = .process ∨ ∃ c, i = .win (chanArg c)) ∧
    (i = .process →
      (s.block.nch ≠ 2#32 ∨ (s.block.inlen.ch0.toNat : Int) < s.block.ablock.toInt ∨
        (s.block.inlen.ch1.toNat : Int) < s.block.ablock.toInt)) ∧
    (∀ c, i = .win (chanArg c) →
      (s.block.nch ≠ 2#32 ∨ ((s.block.inlen.get c).toNat : Int) < s.block.ablock.toInt))) ∧
  completionCode .invalidInput = 2#4

/-- ConfigurationError: raised only by CONFIG, when a check of 40_config.md R103 fails, and then the
block is unconfigured with its registers and banks as 40_config.md R109 says (60_exceptions.md
R201). -/
def Obligations.ConfigurationErrorLeavesNoEstimator : Prop :=
  (∀ s : State, configInvalid s.block →
    exec .config s = .next { s with block := unbuilt s.block .configurationError }) ∧
  (∀ (i : Instr) (s t : State), exec i s = .next t → t.block.err = .configurationError →
    i = .config ∧ configInvalid s.block) ∧
  completionCode .configurationError = 1#4

/-- CapacityError: raised only by CONFIG, after the checks of ConfigurationError have passed, when
BLOCKSIZE is below 2 or above 2^LOG2_NFFT_MAX; the block is then unconfigured (60_exceptions.md
R205, 40_config.md R104, R109). -/
def Obligations.CapacityErrorLeavesNoEstimator : Prop :=
  (∀ s : State, ¬configInvalid s.block →
    (s.block.blocksize.toInt < 2 ∨ 2 ^ Config.log2NfftMax < s.block.blocksize.toInt) →
    exec .config s = .next { s with block := unbuilt s.block .capacityError }) ∧
  (∀ (i : Instr) (s t : State), exec i s = .next t → t.block.err = .capacityError →
    i = .config ∧ ¬configInvalid s.block ∧
      (s.block.blocksize.toInt < 2 ∨ 2 ^ Config.log2NfftMax < s.block.blocksize.toInt)) ∧
  completionCode .capacityError = 5#4

/-- A command that ends in an error has no partial effect: for every command but CONFIG, illegal words
included, the state is as before except STATUS.ERR, and a failed CONFIG leaves the unconfigured
block; the host's RegWrite to CMD answers Ok whatever the code (60_exceptions.md R208). -/
def Obligations.FailedCommandHasNoPartialEffect : Prop :=
  (∀ (i : Instr) (s t : State), exec i s = .next t → t.block.err ≠ .ok →
    (i ≠ .config → t = { s with block := { s.block with err := t.block.err } }) ∧
    (i = .config → t = { s with block := unbuilt s.block t.block.err })) ∧
  (∀ (s t : State) (w : W32) (rest : List (HostEvent B64)),
    s.pending = .regWrite 0 (.word w) :: rest → step s = .next t → t.response = some .ok) ∧
  ∀ (s : State) (w : W32) (e : DecodeError) (rest : List (HostEvent B64)),
    s.pending = .regWrite 0 (.word w) :: rest → decode w = .error e →
    step s = .next { s with
      block := { s.block with err := .illegalCommand }, pending := rest, response := some .ok }

/-- WIN c and PROCESS stop when a sample they need has not been written since reset, naming the first
such sample (41_window.md R122 (d), 93_implementation_defined.md U6; log 9). -/
def Obligations.UnwrittenSampleStopsTheCall : Prop :=
  ∀ (s : State) (c : Channel) (n : Nat), s.block.configured = true → s.block.nch = 2#32 →
    n < s.block.blockLen → memRead (s.block.inp.get c) n = none →
    (∀ j, j < n → (memRead (s.block.inp.get c) j).isSome = true) →
    (s.block.ablock.toInt ≤ ((s.block.inlen.get c).toNat : Int) →
      exec (.win (chanArg c)) s = .fault (.unwrittenInput c n)) ∧
    (s.block.ablock.toInt ≤ (s.block.inlen.ch0.toNat : Int) →
      s.block.ablock.toInt ≤ (s.block.inlen.ch1.toNat : Int) →
      (c = .ch1 → s.block.rowWritten .ch0) →
      exec .process s = .fault (.unwrittenInput c n))

/-- The machine stops for one reason only: it never refuses, and it faults only where a command in
flight needs a sample below B that nothing has written (60_exceptions.md R208, 41_window.md R122
(d); log 9). -/
def Obligations.MachineStopsOnlyAtAnUnwrittenSample : Prop :=
  ∀ s : State,
    (∀ r, step s ≠ .refused r) ∧
    ∀ f, step s = .fault f → ∃ c n w rest, f = .unwrittenInput c n ∧
      s.pending = .regWrite 0 (.word w) :: rest ∧
      (decode w = .ok .process ∨ decode w = .ok (.win (chanArg c))) ∧
      s.block.configured = true ∧ n < s.block.blockLen ∧ memRead (s.block.inp.get c) n = none

/-! ## What each command does -/

/-- NOP sets the completion code to OK and changes nothing else, configured or not; its word is
0x00000000, and with another ARG the word is illegal (40_config.md R101). -/
def Obligations.NopOnlyClearsTheCode : Prop :=
  (∀ s : State, exec .nop s = .next { s with block := { s.block with err := .ok } }) ∧
  encode .nop = 0x00000000#32 ∧
  (∀ w : W32, w.toNat % 256 = 0 → w.toNat ≠ 0 → ∀ i, decode w ≠ .ok i) ∧
  (∀ b : Block B64, b.statusWord = 0x00000321#32 →
    ({ b with err := .ok } : Block B64).statusWord = 0x00000301#32)

/-- A CONFIG whose checks pass constructs the estimator: active registers from the staging registers,
NFFT, ALPHA, the window, every other bank zeroed at its length, counter and flags; the staging and
input registers and IN0, IN1 stay (40_config.md R108, R105, R107; 10_state.md R41). The window
generator and the limit 65536 are the defaults, the model's choice (log 6, log 8). -/
def Obligations.ConfigConstructsTheEstimator : Prop :=
  ∀ s : State, ¬configInvalid s.block → 2 ≤ s.block.blocksize.toInt →
    s.block.blocksize.toInt ≤ 65536 →
    exec .config s = .next { s with
      block := built s.block (nextPow2 s.block.blocksize.toInt.toNat) }

/-- CONFIG depends on the staging registers alone: two states with equal staging registers end in
blocks that are equal in everything but the input descriptors and banks, which each keeps; so CONFIG
issued twice gives the state it gives once (40_config.md R110, R108; 20_memory.md R77). -/
def Obligations.ConfigTwiceIsConfigOnce : Prop :=
  (∀ s t s' t' : State, exec .config s = .next t → exec .config s' = .next t' →
    s.block.blocksize = s'.block.blocksize → s.block.hopsize = s'.block.hopsize →
    s.block.samplerate = s'.block.samplerate →
    t'.block = { t.block with
      nch := s'.block.nch, inlen := s'.block.inlen, inp := s'.block.inp }) ∧
  ∀ s t : State, exec .config s = .next t → exec .config t = .next t

/-- WIN c with its input accepted and written completes: XBUFc is the windowed, zero-padded row, ERR
is OK, nothing else changes (41_window.md R120, R121). -/
def Obligations.WinWindowsAndPads : Prop :=
  ∀ (s : State) (c : Channel), ready s.block → s.block.nch = 2#32 →
    s.block.ablock.toInt ≤ ((s.block.inlen.get c).toNat : Int) → s.block.rowWritten c →
    ∃ l, exec (.win (chanArg c)) s = .next { s with
        block := { s.block with xbuf := s.block.xbuf.set c l, err := .ok } } ∧
      isWindowedRow s.block c l

/-- FFT c completes: SPECc takes the transform of XBUFc, ERR is OK, nothing else changes (42_fft.md
R130; the transform is the default one, log 7). -/
def Obligations.FftFillsTheSpectrum : Prop :=
  ∀ (s : State) (c : Channel), ready s.block →
    exec (.fft (chanArg c)) s = .next { s with
      block := { s.block with
        spec := s.block.spec.set c (fftDefault numB64 s.block.fftLen (s.block.xbuf.get c))
        err := .ok } }

/-- CONJ c completes: CONJc is SPECc with every imaginary part negated, ERR is OK, nothing else
changes (43_cmac.md R140). -/
def Obligations.ConjNegatesImaginaryParts : Prop :=
  ∀ (s : State) (c : Channel), ready s.block →
    ∃ l, exec (.conj (chanArg c)) s = .next { s with
        block := { s.block with conj := s.block.conj.set c l, err := .ok } } ∧
      isConjugate s.block.fftLen (s.block.spec.get c) l

/-- CMUL k completes: INSTk is the product of SPEC0 and CONJ1, SPEC0 and CONJ0, or SPEC1 and CONJ1,
all N bins; ERR is OK, nothing else changes (43_cmac.md R141, R142, R143). -/
def Obligations.CmulFormsTheProducts : Prop :=
  ∀ s : State, ready s.block →
    (∃ l, exec (.cmul 0#8) s = .next { s with
        block := { s.block with inst := { s.block.inst with cross := l }, err := .ok } } ∧
      isProduct s.block.fftLen s.block.spec.ch0 s.block.conj.ch1 l) ∧
    (∃ l, exec (.cmul 1#8) s = .next { s with
        block := { s.block with inst := { s.block.inst with auto0 := l }, err := .ok } } ∧
      isProduct s.block.fftLen s.block.spec.ch0 s.block.conj.ch0 l) ∧
    (∃ l, exec (.cmul 2#8) s = .next { s with
        block := { s.block with inst := { s.block.inst with auto1 := l }, err := .ok } } ∧
      isProduct s.block.fftLen s.block.spec.ch1 s.block.conj.ch1 l)

/-- SMOOTH k completes: every element of ACCk is smoothed in place with INSTk, ERR is OK, nothing else
changes (44_smooth.md R150, R151). -/
def Obligations.SmoothFiltersInPlace : Prop :=
  ∀ (s : State) (k : Spectrum), ready s.block →
    ∃ l, exec (.smooth (specArg k)) s = .next { s with
        block := { s.block with acc := s.block.acc.set k l, err := .ok } } ∧
      isSmoothed s.block.fftLen s.block.alpha (s.block.acc.get k) (s.block.inst.get k) l

/-- TICK below the tenth count: CNT goes up by one, OUT_VALID is cleared, ERR is OK, nothing else
changes, the output banks included (45_decimate_emit.md R160). -/
def Obligations.TickCountsBelowTen : Prop :=
  ∀ s : State, s.block.configured = true → s.block.cnt.toNat < 9 →
    ∃ n : BitVec 4, n.toNat = s.block.cnt.toNat + 1 ∧
      exec .tick s = .next { s with
        block := { s.block with cnt := n, outValid := false, err := .ok } }

/-- TICK at count 9: the output banks take the one-sided scaled spectra with the elements extraction
does not write left as they were, CNT is 0, OUT_VALID is set, ERR is OK, and nothing else changes,
the accumulator included (45_decimate_emit.md R160 to R164). -/
def Obligations.TickEmitsOnTheTenth : Prop :=
  ∀ s : State, ready s.block → s.block.cnt = 9#4 →
    ∃ out, exec .tick s = .next { s with
        block := { s.block with out := out, cnt := 0#4, outValid := true, err := .ok } } ∧
      isEmission s.block.fftLen s.block.afs s.block.acc s.block.out out

/-- A PROCESS whose input is accepted and written completes, and the banks it leaves are related as the
steps say: windowed rows, transforms, conjugates, products, smoothed accumulator; then the count,
with an emission of the new accumulator on the tenth call; every other register and the input stay
(46_process.md R180, R183). That the transform is `fftDefault` is the model's choice (log 7). -/
def Obligations.ProcessRunsTheWholeCall : Prop :=
  ∀ s : State, ready s.block → s.block.CallReady → s.block.cnt.toNat < 10 →
    ∃ b : Block B64, exec .process s = .next { s with block := b } ∧
      (∀ c, isWindowedRow s.block c (b.xbuf.get c)) ∧
      (∀ c, b.spec.get c = fftDefault numB64 s.block.fftLen (b.xbuf.get c)) ∧
      (∀ c, isConjugate s.block.fftLen (b.spec.get c) (b.conj.get c)) ∧
      isProduct s.block.fftLen b.spec.ch0 b.conj.ch1 b.inst.cross ∧
      isProduct s.block.fftLen b.spec.ch0 b.conj.ch0 b.inst.auto0 ∧
      isProduct s.block.fftLen b.spec.ch1 b.conj.ch1 b.inst.auto1 ∧
      (∀ k, isSmoothed s.block.fftLen s.block.alpha (s.block.acc.get k) (b.inst.get k)
        (b.acc.get k)) ∧
      (s.block.cnt.toNat < 9 →
        b.cnt.toNat = s.block.cnt.toNat + 1 ∧ b.outValid = false ∧ b.out = s.block.out) ∧
      (s.block.cnt.toNat = 9 → b.cnt = 0#4 ∧ b.outValid = true ∧
        isEmission s.block.fftLen s.block.afs b.acc s.block.out b.out) ∧
      b.err = .ok ∧
      b = { s.block with
        xbuf := b.xbuf, spec := b.spec, conj := b.conj, inst := b.inst, acc := b.acc
        out := b.out, cnt := b.cnt, outValid := b.outValid, err := b.err }

/-- PROCESS checks its input before it writes anything, and once the check has passed no later step
raises an error: the command either changes nothing but ERR or does all its steps (46_process.md R181).
That a call which ends has found every sample written is the model's (log 9; 41_window.md R122 (d),
93_implementation_defined.md U6): a stop on an unwritten sample is no error of the spec. -/
def Obligations.ProcessDoesNothingOrEverything : Prop :=
  ∀ s t : State, s.block.configured = true → exec .process s = .next t →
    (t = { s with block := { s.block with err := .invalidInput } } ∧
      (s.block.nch ≠ 2#32 ∨ (s.block.inlen.ch0.toNat : Int) < s.block.ablock.toInt ∨
        (s.block.inlen.ch1.toNat : Int) < s.block.ablock.toInt)) ∨
    (t.block.err = .ok ∧ s.block.CallReady ∧ execAll stepCommands s = .next t ∧
      (t.block.cnt.toNat = s.block.cnt.toNat + 1 ∨ t.block.cnt = 0#4))

/-- PROCESS equals its thirteen step commands when the block is configured and the input descriptors
are accepted: the same outcome, state and all. When a check fails they differ: PROCESS changes only
ERR; of the sequence the failing WIN leaves its XBUF, but the later steps run and TICK counts
(46_process.md R182). -/
def Obligations.ProcessEqualsItsThirteenSteps : Prop :=
  (∀ s : State, s.block.configured = true → s.block.nch = 2#32 →
    s.block.ablock.toInt ≤ (s.block.inlen.ch0.toNat : Int) →
    s.block.ablock.toInt ≤ (s.block.inlen.ch1.toNat : Int) →
    execAll stepCommands s = exec .process s) ∧
  ∀ s u : State, s.block.configured = true →
    (s.block.nch ≠ 2#32 ∨ (s.block.inlen.ch0.toNat : Int) < s.block.ablock.toInt ∨
      (s.block.inlen.ch1.toNat : Int) < s.block.ablock.toInt) →
    exec .process s = .next { s with block := { s.block with err := .invalidInput } } ∧
    (execAll stepCommands s = .next u →
      u.block.err = .ok ∧ u.block.cnt ≠ s.block.cnt ∧
      ∀ c, (s.block.nch ≠ 2#32 ∨ ((s.block.inlen.get c).toNat : Int) < s.block.ablock.toInt) →
        u.block.xbuf.get c = s.block.xbuf.get c)

/-! ## Invariants and rules of the whole machine -/

/-- The invariant of the block holds at reset (10_state.md R41, R42). -/
def Obligations.ResetMeetsTheInvariant : Prop := State.reset.Inv

/-- Every step keeps the invariant: the counter below 10, the input memory canonical and inside
IN_CAP, every bank at its length, and the registers, window and unwritten output elements as the
last successful CONFIG left them, or all zero while unconfigured (10_state.md R22, R23, R24, R25,
R37, R41, R42; 45_decimate_emit.md R164). The canonical form is the model's (log 9). -/
def Obligations.EveryStepKeepsTheInvariant : Prop :=
  ∀ s t : State, s.Inv → step s = .next t → t.Inv

/-- While configured, N is a power of two with B ≤ N < 2B and 2 ≤ N, and 0 < H ≤ B ≤ 2^16
(10_state.md R42, R22, R23; 2^16 is the default limit, log 8). -/
def Obligations.ConfiguredSizesAreInRange : Prop :=
  ∀ s : State, s.Inv → s.block.configured = true →
    (∃ m, 1 ≤ m ∧ m ≤ 16 ∧ s.block.nfft.toNat = 2 ^ m) ∧
    s.block.ablock.toInt ≤ (s.block.nfft.toNat : Int) ∧
    (s.block.nfft.toNat : Int) < 2 * s.block.ablock.toInt ∧
    0 < s.block.ahop.toInt ∧ s.block.ahop.toInt ≤ s.block.ablock.toInt ∧
    s.block.ablock.toInt ≤ 65536

/-- The output elements that extraction never writes read +0 while an estimator exists: elements 1 and
N + 1 of OUT0, and element N/2 - 1 of OUT1 and OUT2 when N is at least 4 (45_decimate_emit.md R164,
70_reset_and_hazards.md R233). -/
def Obligations.UnwrittenOutputElementsReadZero : Prop :=
  ∀ (s : State) (n i : Nat) (rest : List (HostEvent B64)), s.Inv → s.block.configured = true →
    s.pending = .memRead n i :: rest →
    ((n = 15 ∧ (i = 1 ∨ i = s.block.fftLen + 1)) ∨
      (4 ≤ s.block.fftLen ∧ (n = 16 ∨ n = 17) ∧ i = s.block.fftLen / 2 - 1)) →
    step s = .next { s with pending := rest, response := some (.value (.num 0#64)) }

/-- A NaN stays: whatever command runs other than CONFIG, an element of the accumulator that is a NaN
is a NaN afterwards (70_reset_and_hazards.md R234, 44_smooth.md R153). -/
def Obligations.NanStaysInTheAccumulator : Prop :=
  ∀ (c : Instr) (s t : State) (k : Spectrum) (i : Nat) (v : B64), c ≠ .config →
    (s.block.acc.get k)[i]? = some v → f64IsNaN v = true → exec c s = .next t →
    ∃ w, (t.block.acc.get k)[i]? = some w ∧ f64IsNaN w = true

/-- No command changes the staging registers, the input descriptors, the input banks or the host's
fields (20_memory.md R77; 10_state.md R21, R28, R29). -/
def Obligations.NoCommandWritesTheHostsRegisters : Prop :=
  ∀ (i : Instr) (s t : State), exec i s = .next t →
    t.block.blocksize = s.block.blocksize ∧ t.block.hopsize = s.block.hopsize ∧
    t.block.samplerate = s.block.samplerate ∧ t.block.nch = s.block.nch ∧
    t.block.inlen = s.block.inlen ∧ t.block.inp = s.block.inp ∧
    t.pending = s.pending ∧ t.response = s.response ∧ t.epoch = s.epoch

/-- Only CONFIG changes CONFIGURED, the active and derived registers and the window (10_state.md R22,
R23, R24, R30, R42; 70_reset_and_hazards.md R231). -/
def Obligations.OnlyConfigChangesTheConfiguration : Prop :=
  ∀ (i : Instr) (s t : State), i ≠ .config → exec i s = .next t →
    t.block.configured = s.block.configured ∧ t.block.ablock = s.block.ablock ∧
    t.block.ahop = s.block.ahop ∧ t.block.afs = s.block.afs ∧ t.block.nfft = s.block.nfft ∧
    t.block.alpha = s.block.alpha ∧ t.block.win = s.block.win

/-- A command writes only the bank of its row: besides CONFIG and PROCESS, XBUFc is written only by
WIN c, SPECc by FFT c, CONJc by CONJ c, INSTk by CMUL k, ACCk by SMOOTH k, and OUT, CNT and
OUT_VALID by TICK (20_memory.md R77; 10_state.md R25, R26). -/
def Obligations.BanksAreWrittenOnlyByTheirCommand : Prop :=
  ∀ (i : Instr) (s t : State), i ≠ .config → i ≠ .process → exec i s = .next t →
    (∀ c, i ≠ .win (chanArg c) → t.block.xbuf.get c = s.block.xbuf.get c) ∧
    (∀ c, i ≠ .fft (chanArg c) → t.block.spec.get c = s.block.spec.get c) ∧
    (∀ c, i ≠ .conj (chanArg c) → t.block.conj.get c = s.block.conj.get c) ∧
    (∀ k, i ≠ .cmul (specArg k) → t.block.inst.get k = s.block.inst.get k) ∧
    (∀ k, i ≠ .smooth (specArg k) → t.block.acc.get k = s.block.acc.get k) ∧
    (i ≠ .tick → t.block.out = s.block.out ∧ t.block.cnt = s.block.cnt ∧
      t.block.outValid = s.block.outValid)

/-- After a CONFIG that ends OK, m TICKs leave CNT = m mod 10, and OUT_VALID is 1 exactly when m is a
positive multiple of 10 (45_decimate_emit.md R167). -/
def Obligations.TicksCountModuloTen : Prop :=
  ∀ s t : State, exec .config s = .next t → t.block.err = .ok → ∀ m : Nat,
    ∃ u, execAll (List.replicate m .tick) t = .next u ∧ u.block.err = .ok ∧
      u.block.cnt.toNat = m % 10 ∧ (u.block.outValid = true ↔ 0 < m ∧ m % 10 = 0)

/-- Exactly one output per ten calls, for any valid input sequence: after a CONFIG that ends OK, the
host giving any accepted and written input before each call, m calls all complete with CNT =
m mod 10, and floor(m / 10) of the m calls left OUT_VALID set (46_process.md R184,
45_decimate_emit.md R167). -/
def Obligations.OneOutputPerTenCalls : Prop :=
  ∀ (s t : State) (inp : Nat → PerChannel (Memory B64)) (inlen : Nat → PerChannel W32),
    exec .config s = .next t → t.block.err = .ok →
    (∀ m, (fed t (inp m) (inlen m)).block.CallReady) →
    ∃ run : Nat → State, run 0 = t ∧
      (∀ m, exec .process (fed (run m) (inp m) (inlen m)) = .next (run (m + 1))) ∧
      (∀ m, (run m).block.err = .ok ∧ (run m).block.cnt.toNat = m % 10 ∧
        ((run m).block.outValid = true ↔ 0 < m ∧ m % 10 = 0)) ∧
      ∀ m, ((List.range m).filter fun j => (run (j + 1)).block.outValid).length = m / 10

/-- With every sample of a block written, a run whose only events are commands other than CONFIG never
stops, whatever the other registers hold (46_process.md R192; log 9). -/
def Obligations.WrittenInputRunsToTheEnd : Prop :=
  ∀ (s : State) (cmds : List Instr), s.block.configured = true → s.block.rowWritten .ch0 →
    s.block.rowWritten .ch1 → (∀ i ∈ cmds, i ≠ .config) →
    s.pending = cmds.map commandWrite → SafeRun s

/-! ## The functions and the laws -/

/-- nextPow2 is the smallest power of two at or above x, unique as such; the source's examples; it is
below 2x, equals x exactly at powers of two, and fits 31 bits up to 2^30 (40_config.md R102). -/
def Obligations.NextPowerOfTwoIsTheSmallest : Prop :=
  (∀ x : Nat, 1 ≤ x →
    (∃ m, nextPow2 x = 2 ^ m ∧ x ≤ 2 ^ m ∧ (1 ≤ m → 2 ^ (m - 1) < x)) ∧
    (∀ m, x ≤ 2 ^ m → (1 ≤ m → 2 ^ (m - 1) < x) → nextPow2 x = 2 ^ m) ∧
    (∀ m, x ≤ 2 ^ m → nextPow2 x ≤ 2 ^ m) ∧
    nextPow2 x < 2 * x ∧ (nextPow2 x = x ↔ ∃ m, x = 2 ^ m) ∧
    (x ≤ 2 ^ 30 → nextPow2 x ≤ 2 ^ 30)) ∧
  nextPow2 400 = 512 ∧ nextPow2 512 = 512 ∧ nextPow2 513 = 1024

/-- Under NUM_REAL alpha is in (0, 1], and is 1 exactly when the hop is the whole block (40_config.md
R105, 10_state.md R24). -/
def Obligations.RealAlphaIsInTheUnitInterval : Prop :=
  ∀ (b h : Int) (fs : ℝ), 0 < h → h ≤ b → 0 < fs →
    0 < alphaOf numReal b h fs ∧ alphaOf numReal b h fs ≤ 1 ∧
    (alphaOf numReal b h fs = 1 ↔ b = h)

/-- The alpha that NUM_B64 computes for a configuration CONFIG accepts is a NaN only where the rate's
eighth is a zero and the hop is the whole block; otherwise it lies in [0, 1]; it is 1 when the hop is
the whole block, and +0 when the overlap over the rate's eighth exceeds 745.2; and it has the digits
the source's scenario and e^-1 have (10_state.md R24, 40_config.md R105, R111 (j); 44_smooth.md R154).
The last places of exp are free and the threshold is the model's reading of "about 745.2" (log 4,
log 14). -/
def Obligations.BinaryAlphaIsInTheUnitInterval : Prop :=
  (∀ (b h : Int) (fs : B64), 0 < h → h ≤ b → b < 2 ^ 31 → f64IsFinite fs = true →
    f64Le0 fs = false →
    (f64IsZero (f64Mul fs f64Eighth) = true → b = h → f64IsNaN (alphaOf numB64 b h fs) = true) ∧
    (f64IsZero (f64Mul fs f64Eighth) = false ∨ b ≠ h →
      f64IsFinite (alphaOf numB64 b h fs) = true ∧ f64Sign (alphaOf numB64 b h fs) = false ∧
      0 ≤ f64Value (alphaOf numB64 b h fs) ∧ f64Value (alphaOf numB64 b h fs) ≤ 1) ∧
    (f64IsZero (f64Mul fs f64Eighth) = false → b = h → alphaOf numB64 b h fs = f64One) ∧
    (f64IsInf (f64Div (f64OfInt (b - h)) (f64Mul fs f64Eighth)) = true ∨
        7452 / 10 < f64Value (f64Div (f64OfInt (b - h)) (f64Mul fs f64Eighth)) ∧
        f64IsFinite (f64Div (f64OfInt (b - h)) (f64Mul fs f64Eighth)) = true →
      alphaOf numB64 b h fs = 0#64)) ∧
  |f64Value (alphaOf numB64 400 200 0x40CF400000000000#64) - 9048374180 / 10 ^ 10|
    ≤ 5 / 10 ^ 11 ∧
  |f64Value (alphaOf numB64 2 1 0x4020000000000000#64) - 3678794412 / 10 ^ 10| ≤ 5 / 10 ^ 11

/-- The default window is normalised: under NUM_REAL b coefficients with (b / N) times the sum of their
squares equal to 1, for every b ≥ 2; under NUM_B64 for every size up to the limit b finite
coefficients with that equal to 1 within 2^-30; and its first coefficient is +0 (40_config.md R106,
R107; 41_window.md R122 (b); 46_process.md R190). The generator and the limit 65536 are the defaults
(log 6, log 8), the last places of cos free (log 5); 2^-30 is this statement's own figure, the spec
leaving EPS_WIN open (log 22). -/
def Obligations.DefaultWindowIsNormalised : Prop :=
  WinNormalised (winDefault numReal) ∧
  WinNormalisedWithin numB64 (fun x => (f64Value x : ℝ)) (1 / 2 ^ 30) 65536 (winDefault numB64) ∧
  ∀ b, 2 ≤ b → b ≤ 65536 → (winDefault numB64 b (nextPow2 b))[0]? = some 0#64

/-- The default transform has 2N elements over every numerics record (42_fft.md R132 FFT-LEN, R133). -/
def Obligations.DefaultFftHasTwoNElements : Prop :=
  ∀ {F : Type} (num : Num F), FftLen (fftDefault num)

/-- The default transform is the unscaled forward DFT with negative exponent under NUM_REAL
(42_fft.md R131, R132 FFT-REF, R133). -/
def Obligations.DefaultFftIsTheReferenceTransform : Prop := FftRef (fftDefault numReal)

/-- The default transform is Hermitian-symmetric and maps zeros to zeros, under NUM_REAL and, for N up
to 2^30, under NUM_B64; and over every numerics record its mirror is exact: bin N - k below is bin k
with the imaginary part negated, and bins 0 and N/2 have imaginary part +0 (42_fft.md R132 FFT-HERM,
FFT-ZERO, R133; the transform is the default one, log 7). -/
def Obligations.DefaultFftIsHermitian : Prop :=
  FftHerm numReal (fftDefault numReal) ∧ (∀ top, FftZero numReal top (fftDefault numReal)) ∧
  FftHerm numB64 (fftDefault numB64) ∧ FftZero numB64 30 (fftDefault numB64) ∧
  ∀ {F : Type} (num : Num F) (m : Nat) (x : List F), x.length = 2 ^ (m + 1) →
    (∀ k, 1 ≤ k → k < 2 ^ m →
      elem num (fftDefault num (2 ^ (m + 1)) x) (2 * (2 ^ (m + 1) - k))
          = elem num (fftDefault num (2 ^ (m + 1)) x) (2 * k) ∧
      elem num (fftDefault num (2 ^ (m + 1)) x) (2 * (2 ^ (m + 1) - k) + 1)
          = num.neg (elem num (fftDefault num (2 ^ (m + 1)) x) (2 * k + 1))) ∧
    elem num (fftDefault num (2 ^ (m + 1)) x) 1 = num.zero ∧
    elem num (fftDefault num (2 ^ (m + 1)) x) (2 ^ (m + 1) + 1) = num.zero

/-- The closed form of the smoothing filter under NUM_REAL: after SMOOTH k on n successive contents of
INSTk, each element of ACCk is alpha^n times its first value plus (1 - alpha) times the weighted sum
of its inputs; from zero with a constant input x of either sign it is (1 - alpha^n) x, which for
alpha in [0, 1] lies between 0 and x, moves toward x and never passes it (44_smooth.md R152). -/
def Obligations.SmoothingHasItsClosedForm : Prop :=
  ∀ (winGen : Nat → Nat → List ℝ) (fft : Nat → List ℝ → List ℝ) (L : Nat)
    (hL : 1 ≤ L ∧ L ≤ 30) (k : Spectrum)
    (b : Block ℝ) (inputs : List (List ℝ)) (i : Nat),
    b.configured = true → (b.acc.get k).length = 2 * b.fftLen → i < 2 * b.fftLen →
    realElem (smoothings (realParams winGen fft L hL) k b inputs).acc k i
      = b.alpha ^ inputs.length * realElem b.acc k i
        + (1 - b.alpha) * ∑ j ∈ Finset.range inputs.length,
            b.alpha ^ (inputs.length - 1 - j) * (inputs.getD j []).getD i 0 ∧
    (∀ x, (∀ I ∈ inputs, I.getD i 0 = x) → realElem b.acc k i = 0 →
      realElem (smoothings (realParams winGen fft L hL) k b inputs).acc k i
        = (1 - b.alpha ^ inputs.length) * x ∧
      (b.alpha = 1 → realElem (smoothings (realParams winGen fft L hL) k b inputs).acc k i = 0) ∧
      (b.alpha = 0 → inputs ≠ [] →
        realElem (smoothings (realParams winGen fft L hL) k b inputs).acc k i = x) ∧
      (0 ≤ b.alpha → b.alpha ≤ 1 →
        min 0 x ≤ realElem (smoothings (realParams winGen fft L hL) k b inputs).acc k i ∧
        realElem (smoothings (realParams winGen fft L hL) k b inputs).acc k i ≤ max 0 x ∧
        movesToward x (realElem (smoothings (realParams winGen fft L hL) k b inputs).acc k i)
          (realElem (runSmooth (realParams winGen fft L hL) (specArg k)
              ((smoothings (realParams winGen fft L hL) k b inputs).setInst k
                (List.replicate (i + 1) x))).acc k i)))

/-- Convergence under NUM_REAL: with the same input block at every call, from a zero accumulator, every
call forms the same instantaneous spectrum Pk, the n-th call leaves ACCk = (1 - alpha^n) Pk, the
distance to Pk shrinks by alpha at each call, and for alpha in [0, 1] each element, of either sign,
moves toward its limit and never passes it, for every window and every transform (46_process.md
R188, 44_smooth.md R152). -/
def Obligations.RepeatedBlockConverges : Prop :=
  ∀ (winGen : Nat → Nat → List ℝ) (fft : Nat → List ℝ → List ℝ) (L : Nat)
    (hL : 1 ≤ L ∧ L ≤ 30) (b : Block ℝ),
    b.CallReady → b.sized = true → (∀ k, ∀ v ∈ b.acc.get k, v = 0) →
    ∃ b1, runProcess (realParams winGen fft L hL) b = .ok b1 ∧
      ∀ n, ∃ bn bn1, calls (realParams winGen fft L hL) n b = .ok bn ∧
        calls (realParams winGen fft L hL) (n + 1) b = .ok bn1 ∧ bn1.inst = b1.inst ∧
        ∀ k i, i < 2 * b.fftLen →
          realElem bn.acc k i = (1 - b.alpha ^ n) * realElem b1.inst k i ∧
          realElem b1.inst k i - realElem bn1.acc k i
            = b.alpha * (realElem b1.inst k i - realElem bn.acc k i) ∧
          (0 ≤ b.alpha → b.alpha ≤ 1 →
            movesToward (realElem b1.inst k i) (realElem bn.acc k i) (realElem bn1.acc k i))

/-- Every call keeps the symmetry of the accumulator under NUM_REAL, for every transform that satisfies
FFT-LEN and FFT-HERM and alpha in [0, 1]: auto-spectra real and not negative, cross-spectrum
Hermitian; so the last element of both auto rows is 0 at an emission (46_process.md R191, 43_cmac.md
R144). In states with AFS = 0, which CONFIG never leaves configured, that last clause rests on the
model's choice that a real number divided by 0 is 0 (log 27). -/
def Obligations.CallsKeepTheAccumulatorSymmetric : Prop :=
  ∀ (winGen : Nat → Nat → List ℝ) (fft : Nat → List ℝ → List ℝ) (L m : Nat)
    (hL : 1 ≤ L ∧ L ≤ 30) (b b' : Block ℝ),
    FftLen fft → FftHerm numReal fft → b.configured = true → b.sized = true →
    b.fftLen = 2 ^ (m + 1) → 0 ≤ b.alpha → b.alpha ≤ 1 → accSymmetric b.fftLen b.acc →
    runProcess (realParams winGen fft L hL) b = .ok b' → b'.err = .ok →
    accSymmetric b.fftLen b'.acc ∧
    (b'.outValid = true →
      realElem b'.out .auto0 (b.fftLen / 2) = 0 ∧ realElem b'.out .auto1 (b.fftLen / 2) = 0)

/-- Silence: under NUM_REAL, for every transform that satisfies FFT-ZERO, from a zero accumulator and
zero outputs, a call on zero samples leaves the accumulator and the outputs zero; and so it does on
the machine, under NUM_B64, where a zero is +0 or -0, whenever ALPHA is finite (46_process.md R186;
40_config.md R111 (j); the machine's window and transform are the defaults, log 6, log 7). In states
with AFS = 0, which CONFIG never leaves configured, the NUM_REAL half rests on the model's choice
that a real number divided by 0 is 0 (log 27). -/
def Obligations.SilenceKeepsEverythingZero : Prop :=
  (∀ (winGen : Nat → Nat → List ℝ) (fft : Nat → List ℝ → List ℝ) (L m : Nat)
    (hL : 1 ≤ L ∧ L ≤ 30) (b b' : Block ℝ),
    FftZero numReal m fft → b.configured = true → b.sized = true → b.fftLen = 2 ^ m →
    (∀ c n, n < b.blockLen → memRead (b.inp.get c) n = some 0) →
    (∀ k, ∀ v ∈ b.acc.get k, v = 0) → (∀ k, ∀ v ∈ b.out.get k, v = 0) →
    runProcess (realParams winGen fft L hL) b = .ok b' →
    (∀ k, ∀ v ∈ b'.acc.get k, v = 0) ∧ (∀ k, ∀ v ∈ b'.out.get k, v = 0)) ∧
  ∀ s t : State, s.Inv → s.block.configured = true → f64IsFinite s.block.alpha = true →
    (∀ c n, n < s.block.blockLen →
      ∃ v, memRead (s.block.inp.get c) n = some v ∧ f64IsZero v = true) →
    (∀ k, ∀ v ∈ s.block.acc.get k, f64IsZero v = true) →
    (∀ k, ∀ v ∈ s.block.out.get k, f64IsZero v = true) →
    exec .process s = .next t →
    (∀ k, ∀ v ∈ t.block.acc.get k, f64IsZero v = true) ∧
    (∀ k, ∀ v ∈ t.block.out.get k, f64IsZero v = true)

/-- The operations of NUM_B64 are correctly rounded to nearest, ties to even, overflowing to an
infinity: sum, difference, product and quotient of finite data, and the square root of a finite datum
that is not negative (00_scope.md R13, from general knowledge; log 2). -/
def Obligations.BinaryOperationsAreCorrectlyRounded : Prop :=
  (∀ a b : B64, f64IsFinite a = true → f64IsFinite b = true →
    correctlyRounded ((f64Value a : ℝ) + f64Value b) (f64Add a b) ∧
    correctlyRounded ((f64Value a : ℝ) - f64Value b) (f64Sub a b) ∧
    correctlyRounded ((f64Value a : ℝ) * f64Value b) (f64Mul a b) ∧
    (f64IsZero b = false →
      correctlyRounded ((f64Value a : ℝ) / f64Value b) (f64Div a b))) ∧
  ∀ a : B64, f64IsFinite a = true → (f64IsZero a = true ∨ f64Sign a = false) →
    correctlyRounded (√(f64Value a : ℝ)) (f64Sqrt a)
end

