-- ==== Sys2Proof/Laws/Params.lean ====
section
/-!
SUPPORT. The fields of the numerics records and of the machine's parameters, one lemma each, so that
no proof unfolds a record.
-/

namespace Sys2Proof.Machine

/-! ## The machine's parameters -/

@[simp] theorem params_num : params.num = numB64 := rfl
@[simp] theorem params_winGen : params.winGen = winDefault numB64 := rfl
@[simp] theorem params_fft : params.fft = fftDefault numB64 := rfl
@[simp] theorem params_log2NfftMax : params.log2NfftMax = Config.log2NfftMax := rfl
@[simp] theorem params_epsFft : params.epsFft = Config.epsFft := rfl
@[simp] theorem params_epsWin : params.epsWin = Config.epsWin := rfl

/-! ## NUM_B64 -/

theorem f64Scale_eq : f64Scale = 2 ^ 1074 := by
  delta f64Scale
  exact Eq.refl _

theorem f64Scale_pos : 0 < f64Scale := by
  have h : ∀ n, f64Scale = 2 ^ n → 0 < f64Scale := fun n e => e ▸ Nat.two_pow_pos n
  exact h 1074 f64Scale_eq

@[simp] theorem numB64_zero : numB64.zero = 0#64 := rfl
@[simp] theorem numB64_one : numB64.one = f64One := rfl
@[simp] theorem numB64_two : numB64.two = f64Two := rfl
@[simp] theorem numB64_half : numB64.half = f64Half := rfl
@[simp] theorem numB64_eighth : numB64.eighth = f64Eighth := rfl
@[simp] theorem numB64_pi : numB64.pi = f64Pi := rfl
@[simp] theorem numB64_ofInt : numB64.ofInt = f64OfInt := rfl
@[simp] theorem numB64_add : numB64.add = f64Add := rfl
@[simp] theorem numB64_sub : numB64.sub = f64Sub := rfl
@[simp] theorem numB64_mul : numB64.mul = f64Mul := rfl
@[simp] theorem numB64_div : numB64.div = f64Div := rfl
@[simp] theorem numB64_neg : numB64.neg = f64Neg := rfl
@[simp] theorem numB64_exp : numB64.exp = f64Exp := rfl
@[simp] theorem numB64_cos : numB64.cos = f64Cos := rfl
@[simp] theorem numB64_sin : numB64.sin = f64Sin := rfl
@[simp] theorem numB64_sqrt : numB64.sqrt = f64Sqrt := rfl
@[simp] theorem numB64_isZero : numB64.isZero = f64IsZero := rfl
@[simp] theorem numB64_le0 : numB64.le0 = f64Le0 := rfl
@[simp] theorem numB64_isFinite : numB64.isFinite = f64IsFinite := rfl

/-! ## NUM_REAL -/

@[simp] theorem numReal_zero : numReal.zero = 0 := rfl
@[simp] theorem numReal_one : numReal.one = 1 := rfl
@[simp] theorem numReal_two : numReal.two = 2 := rfl
@[simp] theorem numReal_half : numReal.half = 1 / 2 := rfl
@[simp] theorem numReal_eighth : numReal.eighth = 1 / 8 := rfl
@[simp] theorem numReal_pi : numReal.pi = Real.pi := rfl
@[simp] theorem numReal_ofInt (n : Int) : numReal.ofInt n = (n : ℝ) := rfl
@[simp] theorem numReal_add (a b : ℝ) : numReal.add a b = a + b := rfl
@[simp] theorem numReal_sub (a b : ℝ) : numReal.sub a b = a - b := rfl
@[simp] theorem numReal_mul (a b : ℝ) : numReal.mul a b = a * b := rfl
@[simp] theorem numReal_div (a b : ℝ) : numReal.div a b = a / b := rfl
@[simp] theorem numReal_neg (a : ℝ) : numReal.neg a = -a := rfl
@[simp] theorem numReal_exp (a : ℝ) : numReal.exp a = Real.exp a := rfl
@[simp] theorem numReal_cos (a : ℝ) : numReal.cos a = Real.cos a := rfl
@[simp] theorem numReal_sin (a : ℝ) : numReal.sin a = Real.sin a := rfl
@[simp] theorem numReal_sqrt (a : ℝ) : numReal.sqrt a = √a := rfl
@[simp] theorem numReal_isFinite (a : ℝ) : numReal.isFinite a = true := rfl

@[simp] theorem numReal_isZero (a : ℝ) : numReal.isZero a = true ↔ a = 0 :=
  @decide_eq_true_iff _ (Classical.propDecidable _)

@[simp] theorem numReal_le0 (a : ℝ) : numReal.le0 a = true ↔ a ≤ 0 :=
  @decide_eq_true_iff _ (Classical.propDecidable _)

end Sys2Proof.Machine
end

