-- ==== Sys2Proof/Laws/Elementary.lean ====
section
/-!
SUPPORT. The series of Machine/Elementary.lean are close to the real functions: what one lemma says
of each, so that no proof about exp, cos or sin unfolds a series.
-/

namespace Sys2Proof.Machine

/-! ## The real argument -/

/-- The magnitude `mag`, a number of units, as a real number. -/
noncomputable def unitsReal (mag : Nat) : ℝ := (mag : ℝ) / (f64Scale : ℝ)

theorem f64Scale_real_pos : (0 : ℝ) < (f64Scale : ℝ) := by exact_mod_cast f64Scale_pos

theorem unitsReal_nonneg (mag : Nat) : 0 ≤ unitsReal mag :=
  div_nonneg (Nat.cast_nonneg _) f64Scale_real_pos.le

theorem unitsReal_le {mag n : Nat} (h : mag ≤ n * f64Scale) : unitsReal mag ≤ n := by
  rw [unitsReal, div_le_iff₀ f64Scale_real_pos]
  exact_mod_cast h

/-! ## The tails of the cosine series -/

/-- m! times the sum of (-1)^j x^(2j) / (m + 2j)!: cos x at m = 0, sin x / x at m = 1. -/
noncomputable def trigTail (x : ℝ) (m : Nat) : ℝ :=
  ∑' j : Nat, (-1) ^ j * x ^ (2 * j) * (m.factorial : ℝ) / ((m + 2 * j).factorial : ℝ)

theorem trigTail_summable (x : ℝ) (m : Nat) :
    Summable fun j : Nat =>
      (-1) ^ j * x ^ (2 * j) * (m.factorial : ℝ) / ((m + 2 * j).factorial : ℝ) := by
  refine Summable.of_norm_bounded
    ((Real.summable_pow_div_factorial (x ^ 2)).mul_left (m.factorial : ℝ)) fun j => ?_
  have hj : (j.factorial : ℝ) ≤ ((m + 2 * j).factorial : ℝ) := by
    exact_mod_cast Nat.factorial_le (by omega)
  have hx : |x ^ (2 * j)| = (x ^ 2) ^ j := by rw [pow_mul, abs_of_nonneg (by positivity)]
  rw [Real.norm_eq_abs, abs_div, abs_mul, abs_mul, abs_pow, abs_neg, abs_one, one_pow, one_mul, hx,
    Nat.abs_cast, Nat.abs_cast, mul_comm, ← mul_div_assoc]
  exact div_le_div_of_nonneg_left (by positivity) (by positivity) hj

theorem trigTail_step (x : ℝ) (m : Nat) :
    trigTail x m = 1 - x ^ 2 / ((m + 1) * (m + 2)) * trigTail x (m + 2) := by
  have hm : (m.factorial : ℝ) ≠ 0 := by positivity
  rw [trigTail, (trigTail_summable x m).tsum_eq_zero_add]
  have h0 : (-1 : ℝ) ^ 0 * x ^ (2 * 0) * (m.factorial : ℝ) / ((m + 2 * 0).factorial : ℝ) = 1 := by
    simp [hm]
  have hs : ∀ j : Nat, (-1 : ℝ) ^ (j + 1) * x ^ (2 * (j + 1)) * (m.factorial : ℝ)
        / ((m + 2 * (j + 1)).factorial : ℝ)
      = -(x ^ 2 / ((m + 1) * (m + 2)))
        * ((-1) ^ j * x ^ (2 * j) * ((m + 2).factorial : ℝ) / ((m + 2 + 2 * j).factorial : ℝ)) := by
    intro j
    have e : m + 2 * (j + 1) = m + 2 + 2 * j := by ring
    have hf : ((m + 2).factorial : ℝ) = (m + 2) * (m + 1) * (m.factorial : ℝ) := by
      rw [Nat.factorial_succ, Nat.factorial_succ]; push_cast; ring
    have h1 : (m : ℝ) + 1 ≠ 0 := by positivity
    have h2 : (m : ℝ) + 2 ≠ 0 := by positivity
    have h3 : ((m + 2 + 2 * j).factorial : ℝ) ≠ 0 := by positivity
    rw [e, hf]
    field_simp
    ring
  rw [h0, tsum_congr hs, tsum_mul_left, trigTail]
  ring

theorem trigTail_zero (x : ℝ) : trigTail x 0 = Real.cos x := by
  rw [trigTail, ← (Real.hasSum_cos x).tsum_eq]
  exact tsum_congr fun j => by simp

theorem trigTail_one (x : ℝ) : x * trigTail x 1 = Real.sin x := by
  rw [trigTail, ← tsum_mul_left, ← (Real.hasSum_sin x).tsum_eq]
  refine tsum_congr fun j => ?_
  rw [show 1 + 2 * j = 2 * j + 1 by ring]
  simp only [Nat.factorial_one, Nat.cast_one]
  ring

/-- Up to 8 in magnitude, the tails from 16 on are at most 2. -/
theorem trigTail_le_two {x : ℝ} (hx : |x| ≤ 8) {m : Nat} (hm : 16 ≤ m) : |trigTail x m| ≤ 2 := by
  have hg : HasSum (fun j : Nat => (1 / 2 : ℝ) ^ j) 2 := hasSum_geometric_two
  rw [← Real.norm_eq_abs, trigTail]
  refine tsum_of_norm_bounded hg fun j => ?_
  have hfac : (m.factorial : ℝ) * ((m : ℝ) + 1) ^ (2 * j) ≤ ((m + 2 * j).factorial : ℝ) := by
    exact_mod_cast Nat.factorial_mul_pow_le_factorial
  have hx2 : |x ^ (2 * j)| ≤ 64 ^ j := by
    rw [abs_pow, pow_mul]
    exact pow_le_pow_left₀ (by positivity) (by nlinarith [abs_nonneg x]) j
  have hm1 : (2 : ℝ) * 64 ≤ ((m : ℝ) + 1) ^ 2 := by
    have : (16 : ℝ) ≤ m := by exact_mod_cast hm
    nlinarith
  have hp : (2 * 64 : ℝ) ^ j ≤ ((m : ℝ) + 1) ^ (2 * j) := by
    rw [pow_mul]; exact pow_le_pow_left₀ (by positivity) hm1 j
  have hF : (0 : ℝ) < ((m + 2 * j).factorial : ℝ) := by positivity
  rw [Real.norm_eq_abs, abs_div, abs_mul, abs_mul, abs_pow, abs_neg, abs_one, one_pow, one_mul,
    Nat.abs_cast, Nat.abs_cast, div_le_iff₀ hF, div_pow, one_pow]
  have hm0 : (0 : ℝ) ≤ (m.factorial : ℝ) := by positivity
  rw [mul_pow] at hp
  have h2 : (0 : ℝ) < 2 ^ j := by positivity
  rw [one_div, inv_mul_eq_div, le_div_iff₀ h2]
  calc |x ^ (2 * j)| * (m.factorial : ℝ) * 2 ^ j
      ≤ 64 ^ j * (m.factorial : ℝ) * 2 ^ j := by gcongr
    _ = (m.factorial : ℝ) * (2 ^ j * 64 ^ j) := by ring
    _ ≤ (m.factorial : ℝ) * ((m : ℝ) + 1) ^ (2 * j) := by gcongr
    _ ≤ _ := hfac

/-! ## cos and sin -/

/-- How far `fuel` levels of the series may be from the tail at m, in units of 1. -/
def trigBound : (fuel m : Nat) → ℚ
  | 0, _ => 3
  | fuel + 1, m => 64 / ((m + 1) * (m + 2)) * trigBound fuel (m + 2) + 1 / 2 ^ 192

theorem trigSeries_close {mag : Nat} (h : mag ≤ 8 * f64Scale) (fuel : Nat) :
    ∀ m, 16 ≤ m + 2 * fuel →
      |(trigSeries mag fuel m : ℝ) / (trigOne : ℝ) - trigTail (unitsReal mag) m|
        ≤ (trigBound fuel m : ℝ) := by
  have hone : (0 : ℝ) < (trigOne : ℝ) := by norm_num [trigOne]
  have hx0 := unitsReal_nonneg mag
  have hx8 : unitsReal mag ≤ 8 := unitsReal_le h
  induction fuel with
  | zero =>
    intro m hm
    have ht := abs_le.1 (trigTail_le_two (x := unitsReal mag)
      (by rw [abs_of_nonneg hx0]; exact hx8) (by omega : 16 ≤ m))
    have h1 : (trigSeries mag 0 m : ℝ) / (trigOne : ℝ) = 1 := by
      simp [trigSeries, hone.ne']
    rw [h1]
    norm_num [trigBound]
    rw [abs_le]
    constructor <;> linarith [ht.1, ht.2]
  | succ fuel ih =>
    intro m hm
    have hA := ih (m + 2) (by omega)
    set A : Int := trigSeries mag fuel (m + 2) with hAdef
    set D : Nat := f64Scale * f64Scale * ((m + 1) * (m + 2)) with hD
    have hDpos : (0 : ℝ) < (D : ℝ) := by
      have : 0 < D := by rw [hD]; have := f64Scale_pos; positivity
      exact_mod_cast this
    have hDint : (0 : Int) < (D : Int) := by exact_mod_cast hDpos
    have hser : trigSeries mag (fuel + 1) m
        = (trigOne : Int) - ((mag * mag : Nat) : Int) * A / (D : Int) := rfl
    set q : Int := ((mag * mag : Nat) : Int) * A / (D : Int) with hq
    have hqle : (q : ℝ) * D ≤ ((mag : ℝ) * mag) * A := by
      have := Int.ediv_mul_le (((mag * mag : Nat) : Int) * A) hDint.ne'
      rw [← hq] at this
      have := (Int.cast_le (R := ℝ)).2 this
      push_cast at this; linarith
    have hqlt : ((mag : ℝ) * mag) * A < ((q : ℝ) + 1) * D := by
      have := Int.lt_ediv_add_one_mul_self (((mag * mag : Nat) : Int) * A) hDint
      rw [← hq] at this
      have := (Int.cast_lt (R := ℝ)).2 this
      push_cast at this; linarith
    have hs := f64Scale_real_pos
    have hy : unitsReal mag ^ 2 / ((m + 1) * (m + 2)) = ((mag : ℝ) * mag) / D := by
      rw [hD, unitsReal]; push_cast; field_simp
    have hc0 : 0 ≤ ((mag : ℝ) * mag) / D := by positivity
    have hc : ((mag : ℝ) * mag) / D ≤ 64 / ((m + 1) * (m + 2)) := by
      rw [← hy]
      have : unitsReal mag ^ 2 ≤ 64 := by nlinarith
      gcongr
    rw [hser, trigTail_step, hy]
    set c : ℝ := ((mag : ℝ) * mag) / D with hcdef
    have h1 : (q : ℝ) ≤ c * A := by rw [hcdef, div_mul_eq_mul_div, le_div_iff₀ hDpos]; exact hqle
    have h2 : c * A < q + 1 := by rw [hcdef, div_mul_eq_mul_div, div_lt_iff₀ hDpos]; exact hqlt
    have hone' : (trigOne : ℝ) = 2 ^ 192 := by norm_num [trigOne]
    have key : (((trigOne : Int) - q : Int) : ℝ) / (trigOne : ℝ)
          - (1 - c * trigTail (unitsReal mag) (m + 2))
        = -(c * ((A : ℝ) / (trigOne : ℝ) - trigTail (unitsReal mag) (m + 2)))
          + (c * A - q) / (trigOne : ℝ) := by
      push_cast; field_simp; ring
    rw [key]
    have hb : |c * ((A : ℝ) / (trigOne : ℝ) - trigTail (unitsReal mag) (m + 2))|
        ≤ 64 / ((m + 1) * (m + 2)) * (trigBound fuel (m + 2) : ℝ) := by
      rw [abs_mul, abs_of_nonneg hc0]
      gcongr
    have hr : |(c * A - q) / (trigOne : ℝ)| ≤ 1 / 2 ^ 192 := by
      rw [abs_div, abs_of_pos hone, ← hone']
      gcongr
      rw [abs_le]; constructor <;> linarith
    calc _ ≤ |-(c * ((A : ℝ) / (trigOne : ℝ) - trigTail (unitsReal mag) (m + 2)))|
          + |(c * A - q) / (trigOne : ℝ)| := abs_add_le _ _
      _ ≤ _ := by
        rw [abs_neg, trigBound]
        push_cast
        linarith

theorem trigBound_cos : trigBound 48 0 ≤ 1 / 2 ^ 180 := by decide +kernel

theorem trigBound_sin : trigBound 48 1 ≤ 1 / 2 ^ 180 := by decide +kernel

/-- cos up to 8 in magnitude, within 2^-180. -/
theorem cosSeries_close {mag : Nat} (h : mag ≤ 8 * f64Scale) :
    |(cosSeries mag : ℝ) / (trigOne : ℝ) - Real.cos (unitsReal mag)| ≤ 1 / 2 ^ 180 := by
  rw [← trigTail_zero]
  refine (trigSeries_close h 48 0 (by omega)).trans ?_
  have := (Rat.cast_le (K := ℝ)).2 trigBound_cos
  push_cast at this
  exact this

/-- sin up to 8 in magnitude, within 2^-180 of the argument. -/
theorem sincSeries_close {mag : Nat} (h : mag ≤ 8 * f64Scale) :
    |unitsReal mag * ((sincSeries mag : ℝ) / (trigOne : ℝ)) - Real.sin (unitsReal mag)|
      ≤ unitsReal mag / 2 ^ 180 := by
  have e : unitsReal mag / 2 ^ 180 = unitsReal mag * (1 / 2 ^ 180) := by ring
  rw [← trigTail_one, ← mul_sub, abs_mul, abs_of_nonneg (unitsReal_nonneg mag), e]
  refine mul_le_mul_of_nonneg_left ?_ (unitsReal_nonneg mag)
  refine (trigSeries_close h 48 1 (by omega)).trans ?_
  have := (Rat.cast_le (K := ℝ)).2 trigBound_sin
  push_cast at this
  exact this

/-! ## exp -/

/-- What stands for 1 in the series of exp, as a real number. -/
theorem expOne_eq : expOne = 2 ^ 1280 := by
  delta expOne
  exact Eq.refl _

theorem expOne_pos : 0 < expOne := by
  have h : ∀ n, expOne = 2 ^ n → 0 < expOne := fun n e => e ▸ Nat.two_pow_pos n
  exact h 1280 expOne_eq

/-- k! times the sum of (-r)^j / (k + j)!: exp (-r) at k = 0. -/
noncomputable def expTail (r : ℝ) (k : Nat) : ℝ :=
  ∑' j : Nat, (-r) ^ j * (k.factorial : ℝ) / ((k + j).factorial : ℝ)

theorem expTail_summable (r : ℝ) (k : Nat) :
    Summable fun j : Nat => (-r) ^ j * (k.factorial : ℝ) / ((k + j).factorial : ℝ) := by
  refine Summable.of_norm_bounded
    ((Real.summable_pow_div_factorial |r|).mul_left (k.factorial : ℝ)) fun j => ?_
  have hj : (j.factorial : ℝ) ≤ ((k + j).factorial : ℝ) := by
    exact_mod_cast Nat.factorial_le (by omega)
  rw [Real.norm_eq_abs, abs_div, abs_mul, abs_pow, abs_neg, Nat.abs_cast, Nat.abs_cast, mul_comm,
    ← mul_div_assoc]
  exact div_le_div_of_nonneg_left (by positivity) (by positivity) hj

theorem expTail_step (r : ℝ) (k : Nat) :
    expTail r k = 1 - r / (k + 1) * expTail r (k + 1) := by
  have hk : (k.factorial : ℝ) ≠ 0 := by positivity
  rw [expTail, (expTail_summable r k).tsum_eq_zero_add]
  have h0 : (-r) ^ 0 * (k.factorial : ℝ) / ((k + 0).factorial : ℝ) = 1 := by simp [hk]
  have hs : ∀ j : Nat, (-r) ^ (j + 1) * (k.factorial : ℝ) / ((k + (j + 1)).factorial : ℝ)
      = -(r / (k + 1)) * ((-r) ^ j * ((k + 1).factorial : ℝ) / ((k + 1 + j).factorial : ℝ)) := by
    intro j
    have e : k + (j + 1) = k + 1 + j := by ring
    have hf : ((k + 1).factorial : ℝ) = (k + 1) * (k.factorial : ℝ) := by
      rw [Nat.factorial_succ]; push_cast; ring
    have h1 : (k : ℝ) + 1 ≠ 0 := by positivity
    have h3 : ((k + 1 + j).factorial : ℝ) ≠ 0 := by positivity
    rw [e, hf]
    field_simp
    ring
  rw [h0, tsum_congr hs, tsum_mul_left, expTail]
  ring

theorem expTail_zero (r : ℝ) : expTail r 0 = Real.exp (-r) := by
  rw [expTail, Real.exp_eq_exp_ℝ, NormedSpace.exp_eq_tsum_div (𝔸 := ℝ)]
  exact tsum_congr fun j => by simp

/-- For r in [0, 1] the tails from 1 on are at most 2. -/
theorem expTail_le_two {r : ℝ} (h0 : 0 ≤ r) (h1 : r ≤ 1) {k : Nat} (hk : 1 ≤ k) :
    |expTail r k| ≤ 2 := by
  have hg : HasSum (fun j : Nat => (1 / 2 : ℝ) ^ j) 2 := hasSum_geometric_two
  rw [← Real.norm_eq_abs, expTail]
  refine tsum_of_norm_bounded hg fun j => ?_
  have hfac : (k.factorial : ℝ) * ((k : ℝ) + 1) ^ j ≤ ((k + j).factorial : ℝ) := by
    exact_mod_cast Nat.factorial_mul_pow_le_factorial
  have hr : r ^ j ≤ 1 := pow_le_one₀ h0 h1
  have hp : (2 : ℝ) ^ j ≤ ((k : ℝ) + 1) ^ j := by
    have : (1 : ℝ) ≤ k := by exact_mod_cast hk
    exact pow_le_pow_left₀ (by norm_num) (by linarith) j
  have hF : (0 : ℝ) < ((k + j).factorial : ℝ) := by positivity
  rw [Real.norm_eq_abs, abs_div, abs_mul, abs_pow, abs_neg, abs_of_nonneg h0, Nat.abs_cast,
    Nat.abs_cast, div_le_iff₀ hF, div_pow, one_pow, one_div, inv_mul_eq_div,
    le_div_iff₀ (by positivity)]
  calc r ^ j * (k.factorial : ℝ) * 2 ^ j ≤ 1 * (k.factorial : ℝ) * 2 ^ j := by gcongr
    _ = (k.factorial : ℝ) * 2 ^ j := by ring
    _ ≤ (k.factorial : ℝ) * ((k : ℝ) + 1) ^ j := by gcongr
    _ ≤ _ := hfac

/-- How far `fuel` levels of the series of exp may be from the tail at k, in units of 1. -/
def expBound : (fuel k : Nat) → ℚ
  | 0, _ => 3
  | fuel + 1, k => 1 / (k + 1) * expBound fuel (k + 1) + 1 / expOne

theorem expSeries_le (n d fuel k : Nat) : expSeries n d fuel k ≤ expOne := by
  cases fuel with
  | zero => exact le_rfl
  | succ fuel => exact Nat.sub_le _ _

theorem expSeries_close {n d : Nat} (hd : 0 < d) (h : n ≤ d) (fuel : Nat) :
    ∀ k, 1 ≤ k + fuel →
      |(expSeries n d fuel k : ℝ) / (expOne : ℝ) - expTail ((n : ℝ) / d) k|
        ≤ (expBound fuel k : ℝ) := by
  have hone : (0 : ℝ) < (expOne : ℝ) := by exact_mod_cast expOne_pos
  have hdR : (0 : ℝ) < (d : ℝ) := by exact_mod_cast hd
  have hr0 : 0 ≤ (n : ℝ) / d := by positivity
  have hr1 : (n : ℝ) / d ≤ 1 := by rw [div_le_one hdR]; exact_mod_cast h
  induction fuel with
  | zero =>
    intro k hk
    have ht := abs_le.1 (expTail_le_two hr0 hr1 (by omega : 1 ≤ k))
    have h1 : (expSeries n d 0 k : ℝ) / (expOne : ℝ) = 1 := by simp [expSeries, hone.ne']
    rw [h1]
    norm_num [expBound]
    rw [abs_le]
    constructor <;> linarith [ht.1, ht.2]
  | succ fuel ih =>
    intro k hk
    have hA := ih (k + 1) (by omega)
    set A : Nat := expSeries n d fuel (k + 1) with hAdef
    have hAle : A ≤ expOne := expSeries_le _ _ _ _
    have hDpos : 0 < d * (k + 1) := by positivity
    have hser : expSeries n d (fuel + 1) k = expOne - n * A / (d * (k + 1)) := rfl
    set q : Nat := n * A / (d * (k + 1)) with hq
    have hqone : q ≤ expOne := by
      refine (Nat.div_le_of_le_mul ?_ : n * A / (d * (k + 1)) ≤ expOne)
      calc n * A ≤ d * expOne := Nat.mul_le_mul h hAle
        _ ≤ d * (k + 1) * expOne := by
          rw [mul_assoc]; exact Nat.mul_le_mul_left d (Nat.le_mul_of_pos_left _ (by omega))
    have hqle : (q : ℝ) * (d * (k + 1)) ≤ (n : ℝ) * A := by
      exact_mod_cast Nat.div_mul_le_self (n * A) (d * (k + 1))
    have hqlt : (n : ℝ) * A < ((q : ℝ) + 1) * (d * (k + 1)) := by
      have := Nat.lt_div_mul_add (a := n * A) hDpos
      rw [← hq, ← Nat.succ_mul] at this
      exact_mod_cast this
    have hD : (0 : ℝ) < (d : ℝ) * (k + 1) := by positivity
    have hy : (n : ℝ) / d / (k + 1) = (n : ℝ) / (d * (k + 1)) := div_div _ _ _
    rw [hser, Nat.cast_sub hqone, expTail_step, hy]
    set c : ℝ := (n : ℝ) / (d * (k + 1)) with hc
    have hc0 : 0 ≤ c := by positivity
    have hc1 : c ≤ 1 / (k + 1) := by
      rw [← hy]
      gcongr
    have h1 : (q : ℝ) ≤ c * A := by rw [hc, div_mul_eq_mul_div, le_div_iff₀ hD]; exact hqle
    have h2 : c * A < q + 1 := by rw [hc, div_mul_eq_mul_div, div_lt_iff₀ hD]; exact hqlt
    have key : ((expOne : ℝ) - q) / (expOne : ℝ) - (1 - c * expTail ((n : ℝ) / d) (k + 1))
        = -(c * ((A : ℝ) / (expOne : ℝ) - expTail ((n : ℝ) / d) (k + 1)))
          + (c * A - q) / (expOne : ℝ) := by
      field_simp; ring
    rw [key]
    have hb : |c * ((A : ℝ) / (expOne : ℝ) - expTail ((n : ℝ) / d) (k + 1))|
        ≤ 1 / (k + 1) * (expBound fuel (k + 1) : ℝ) := by
      rw [abs_mul, abs_of_nonneg hc0]
      gcongr
    have hrem : |(c * A - q) / (expOne : ℝ)| ≤ 1 / (expOne : ℝ) := by
      rw [abs_div, abs_of_pos hone]
      gcongr
      rw [abs_le]; constructor <;> linarith
    calc _ ≤ |-(c * ((A : ℝ) / (expOne : ℝ) - expTail ((n : ℝ) / d) (k + 1)))|
          + |(c * A - q) / (expOne : ℝ)| := abs_add_le _ _
      _ ≤ _ := by
        rw [abs_neg, expBound]
        push_cast
        linarith

theorem expBound_all : expBound 224 0 ≤ 4 / expOne := by decide +kernel

/-- Squaring doubles the distance, and rounding down adds one unit each time. -/
theorem squareTimes_close (times : Nat) : ∀ (e : Nat) (t eps : ℝ), e ≤ expOne → 0 ≤ t → t ≤ 1 →
    0 ≤ eps → |(e : ℝ) / (expOne : ℝ) - t| ≤ eps / (expOne : ℝ) →
    |(squareTimes times e : ℝ) / (expOne : ℝ) - t ^ 2 ^ times|
      ≤ (2 ^ times * (eps + 1)) / (expOne : ℝ) := by
  have hone : (0 : ℝ) < (expOne : ℝ) := by exact_mod_cast expOne_pos
  induction times with
  | zero =>
    intro e t eps _ _ _ _ h
    simp only [squareTimes, pow_zero, pow_one, one_mul]
    refine h.trans ?_
    gcongr
    linarith
  | succ times ih =>
    intro e t eps he t0 t1 e0 h
    have hq : e * e / expOne ≤ expOne :=
      Nat.div_le_of_le_mul (Nat.mul_le_mul he he)
    have hqle : ((e * e / expOne : Nat) : ℝ) * (expOne : ℝ) ≤ (e : ℝ) * e := by
      exact_mod_cast Nat.div_mul_le_self (e * e) expOne
    have hqlt : (e : ℝ) * e < (((e * e / expOne : Nat) : ℝ) + 1) * (expOne : ℝ) := by
      have := Nat.lt_div_mul_add (a := e * e) expOne_pos
      rw [← Nat.succ_mul] at this
      exact_mod_cast this
    set q : Nat := e * e / expOne
    set a : ℝ := (e : ℝ) / (expOne : ℝ) with ha
    have ha0 : 0 ≤ a := by positivity
    have ha1 : a ≤ 1 := by rw [ha, div_le_one hone]; exact_mod_cast he
    have hstep : |(q : ℝ) / (expOne : ℝ) - t ^ 2| ≤ (2 * eps + 1) / (expOne : ℝ) := by
      have hfl : |(q : ℝ) / (expOne : ℝ) - a ^ 2| ≤ 1 / (expOne : ℝ) := by
        have e1 : (q : ℝ) / (expOne : ℝ) - a ^ 2
            = ((q : ℝ) * (expOne : ℝ) - e * e) / ((expOne : ℝ) * expOne) := by
          rw [ha]; field_simp
        rw [e1, abs_div, abs_of_pos (by positivity : (0 : ℝ) < (expOne : ℝ) * expOne),
          div_le_div_iff₀ (by positivity) hone, one_mul]
        refine mul_le_mul_of_nonneg_right ?_ hone.le
        rw [abs_le]; constructor <;> linarith
      have hsq : |a ^ 2 - t ^ 2| ≤ 2 * eps / (expOne : ℝ) := by
        have e2 : a ^ 2 - t ^ 2 = (a - t) * (a + t) := by ring
        rw [e2, abs_mul, abs_of_nonneg (by linarith : 0 ≤ a + t)]
        calc |a - t| * (a + t) ≤ eps / (expOne : ℝ) * 2 := by
              gcongr
              linarith
          _ = _ := by ring
      calc _ ≤ |(q : ℝ) / (expOne : ℝ) - a ^ 2| + |a ^ 2 - t ^ 2| := abs_sub_le _ _ _
        _ ≤ 1 / (expOne : ℝ) + 2 * eps / (expOne : ℝ) := add_le_add hfl hsq
        _ = _ := by ring
    have := ih q (t ^ 2) (2 * eps + 1) hq (by positivity) (pow_le_one₀ t0 t1) (by linarith) hstep
    rw [squareTimes, pow_succ' 2 times, pow_mul]
    refine this.trans (le_of_eq ?_)
    ring

/-- exp of a negative argument down to -1024, within 2^-1267. -/
theorem expNeg_close {mag : Nat} (h : mag ≤ 1024 * f64Scale) :
    |(expNeg mag : ℝ) / (expOne : ℝ) - Real.exp (-unitsReal mag)| ≤ 8192 / (expOne : ℝ) := by
  have hs := f64Scale_pos
  have hd : 0 < 1024 * f64Scale := by omega
  have hc := expSeries_close hd h 224 0 (by omega)
  have hb := (Rat.cast_le (K := ℝ)).2 expBound_all
  push_cast at hb
  rw [expTail_zero] at hc
  have hr : (0 : ℝ) ≤ (mag : ℝ) / ((1024 * f64Scale : Nat) : ℝ) := by positivity
  have hsq := squareTimes_close 10 _ _ 4 (expSeries_le mag (1024 * f64Scale) 224 0)
    (Real.exp_pos _).le (Real.exp_le_one_iff.2 (neg_nonpos.2 hr)) (by norm_num) (hc.trans hb)
  have e : Real.exp (-((mag : ℝ) / ((1024 * f64Scale : Nat) : ℝ))) ^ 2 ^ 10
      = Real.exp (-unitsReal mag) := by
    rw [← Real.exp_nat_mul, unitsReal]
    congr 1
    have := f64Scale_real_pos.ne'
    push_cast
    field_simp
  rw [e] at hsq
  refine hsq.trans ?_
  have hone : (0 : ℝ) < (expOne : ℝ) := by exact_mod_cast expOne_pos
  gcongr
  norm_num

end Sys2Proof.Machine
end

