-- ==== Sys2Proof/Laws/State.lean ====
section
/-!
SUPPORT. One lemma per field per update of the block and of the machine, each true by rfl, so that no
later proof unfolds a record update.
-/

namespace Sys2Proof.Machine

variable {F : Type}

/-! ## Block.raise -/

@[simp] theorem Block.raise_configured (b : Block F) (e : Completion) :
    (b.raise e).configured = b.configured := rfl
@[simp] theorem Block.raise_outValid (b : Block F) (e : Completion) :
    (b.raise e).outValid = b.outValid := rfl
@[simp] theorem Block.raise_err (b : Block F) (e : Completion) :
    (b.raise e).err = e := rfl
@[simp] theorem Block.raise_cnt (b : Block F) (e : Completion) :
    (b.raise e).cnt = b.cnt := rfl
@[simp] theorem Block.raise_blocksize (b : Block F) (e : Completion) :
    (b.raise e).blocksize = b.blocksize := rfl
@[simp] theorem Block.raise_hopsize (b : Block F) (e : Completion) :
    (b.raise e).hopsize = b.hopsize := rfl
@[simp] theorem Block.raise_samplerate (b : Block F) (e : Completion) :
    (b.raise e).samplerate = b.samplerate := rfl
@[simp] theorem Block.raise_nch (b : Block F) (e : Completion) :
    (b.raise e).nch = b.nch := rfl
@[simp] theorem Block.raise_inlen (b : Block F) (e : Completion) :
    (b.raise e).inlen = b.inlen := rfl
@[simp] theorem Block.raise_ablock (b : Block F) (e : Completion) :
    (b.raise e).ablock = b.ablock := rfl
@[simp] theorem Block.raise_ahop (b : Block F) (e : Completion) :
    (b.raise e).ahop = b.ahop := rfl
@[simp] theorem Block.raise_afs (b : Block F) (e : Completion) :
    (b.raise e).afs = b.afs := rfl
@[simp] theorem Block.raise_nfft (b : Block F) (e : Completion) :
    (b.raise e).nfft = b.nfft := rfl
@[simp] theorem Block.raise_alpha (b : Block F) (e : Completion) :
    (b.raise e).alpha = b.alpha := rfl
@[simp] theorem Block.raise_inp (b : Block F) (e : Completion) :
    (b.raise e).inp = b.inp := rfl
@[simp] theorem Block.raise_win (b : Block F) (e : Completion) :
    (b.raise e).win = b.win := rfl
@[simp] theorem Block.raise_xbuf (b : Block F) (e : Completion) :
    (b.raise e).xbuf = b.xbuf := rfl
@[simp] theorem Block.raise_spec (b : Block F) (e : Completion) :
    (b.raise e).spec = b.spec := rfl
@[simp] theorem Block.raise_conj (b : Block F) (e : Completion) :
    (b.raise e).conj = b.conj := rfl
@[simp] theorem Block.raise_inst (b : Block F) (e : Completion) :
    (b.raise e).inst = b.inst := rfl
@[simp] theorem Block.raise_acc (b : Block F) (e : Completion) :
    (b.raise e).acc = b.acc := rfl
@[simp] theorem Block.raise_out (b : Block F) (e : Completion) :
    (b.raise e).out = b.out := rfl

/-! ## Block.complete -/

@[simp] theorem Block.complete_configured (b : Block F) :
    (b.complete).configured = b.configured := rfl
@[simp] theorem Block.complete_outValid (b : Block F) :
    (b.complete).outValid = b.outValid := rfl
@[simp] theorem Block.complete_err (b : Block F) :
    (b.complete).err = .ok := rfl
@[simp] theorem Block.complete_cnt (b : Block F) :
    (b.complete).cnt = b.cnt := rfl
@[simp] theorem Block.complete_blocksize (b : Block F) :
    (b.complete).blocksize = b.blocksize := rfl
@[simp] theorem Block.complete_hopsize (b : Block F) :
    (b.complete).hopsize = b.hopsize := rfl
@[simp] theorem Block.complete_samplerate (b : Block F) :
    (b.complete).samplerate = b.samplerate := rfl
@[simp] theorem Block.complete_nch (b : Block F) :
    (b.complete).nch = b.nch := rfl
@[simp] theorem Block.complete_inlen (b : Block F) :
    (b.complete).inlen = b.inlen := rfl
@[simp] theorem Block.complete_ablock (b : Block F) :
    (b.complete).ablock = b.ablock := rfl
@[simp] theorem Block.complete_ahop (b : Block F) :
    (b.complete).ahop = b.ahop := rfl
@[simp] theorem Block.complete_afs (b : Block F) :
    (b.complete).afs = b.afs := rfl
@[simp] theorem Block.complete_nfft (b : Block F) :
    (b.complete).nfft = b.nfft := rfl
@[simp] theorem Block.complete_alpha (b : Block F) :
    (b.complete).alpha = b.alpha := rfl
@[simp] theorem Block.complete_inp (b : Block F) :
    (b.complete).inp = b.inp := rfl
@[simp] theorem Block.complete_win (b : Block F) :
    (b.complete).win = b.win := rfl
@[simp] theorem Block.complete_xbuf (b : Block F) :
    (b.complete).xbuf = b.xbuf := rfl
@[simp] theorem Block.complete_spec (b : Block F) :
    (b.complete).spec = b.spec := rfl
@[simp] theorem Block.complete_conj (b : Block F) :
    (b.complete).conj = b.conj := rfl
@[simp] theorem Block.complete_inst (b : Block F) :
    (b.complete).inst = b.inst := rfl
@[simp] theorem Block.complete_acc (b : Block F) :
    (b.complete).acc = b.acc := rfl
@[simp] theorem Block.complete_out (b : Block F) :
    (b.complete).out = b.out := rfl

/-! ## Block.setXbuf -/

@[simp] theorem Block.setXbuf_configured (b : Block F) (c : Channel) (l : List F) :
    (b.setXbuf c l).configured = b.configured := rfl
@[simp] theorem Block.setXbuf_outValid (b : Block F) (c : Channel) (l : List F) :
    (b.setXbuf c l).outValid = b.outValid := rfl
@[simp] theorem Block.setXbuf_err (b : Block F) (c : Channel) (l : List F) :
    (b.setXbuf c l).err = b.err := rfl
@[simp] theorem Block.setXbuf_cnt (b : Block F) (c : Channel) (l : List F) :
    (b.setXbuf c l).cnt = b.cnt := rfl
@[simp] theorem Block.setXbuf_blocksize (b : Block F) (c : Channel) (l : List F) :
    (b.setXbuf c l).blocksize = b.blocksize := rfl
@[simp] theorem Block.setXbuf_hopsize (b : Block F) (c : Channel) (l : List F) :
    (b.setXbuf c l).hopsize = b.hopsize := rfl
@[simp] theorem Block.setXbuf_samplerate (b : Block F) (c : Channel) (l : List F) :
    (b.setXbuf c l).samplerate = b.samplerate := rfl
@[simp] theorem Block.setXbuf_nch (b : Block F) (c : Channel) (l : List F) :
    (b.setXbuf c l).nch = b.nch := rfl
@[simp] theorem Block.setXbuf_inlen (b : Block F) (c : Channel) (l : List F) :
    (b.setXbuf c l).inlen = b.inlen := rfl
@[simp] theorem Block.setXbuf_ablock (b : Block F) (c : Channel) (l : List F) :
    (b.setXbuf c l).ablock = b.ablock := rfl
@[simp] theorem Block.setXbuf_ahop (b : Block F) (c : Channel) (l : List F) :
    (b.setXbuf c l).ahop = b.ahop := rfl
@[simp] theorem Block.setXbuf_afs (b : Block F) (c : Channel) (l : List F) :
    (b.setXbuf c l).afs = b.afs := rfl
@[simp] theorem Block.setXbuf_nfft (b : Block F) (c : Channel) (l : List F) :
    (b.setXbuf c l).nfft = b.nfft := rfl
@[simp] theorem Block.setXbuf_alpha (b : Block F) (c : Channel) (l : List F) :
    (b.setXbuf c l).alpha = b.alpha := rfl
@[simp] theorem Block.setXbuf_inp (b : Block F) (c : Channel) (l : List F) :
    (b.setXbuf c l).inp = b.inp := rfl
@[simp] theorem Block.setXbuf_win (b : Block F) (c : Channel) (l : List F) :
    (b.setXbuf c l).win = b.win := rfl
@[simp] theorem Block.setXbuf_xbuf (b : Block F) (c : Channel) (l : List F) :
    (b.setXbuf c l).xbuf = b.xbuf.set c l := rfl
@[simp] theorem Block.setXbuf_spec (b : Block F) (c : Channel) (l : List F) :
    (b.setXbuf c l).spec = b.spec := rfl
@[simp] theorem Block.setXbuf_conj (b : Block F) (c : Channel) (l : List F) :
    (b.setXbuf c l).conj = b.conj := rfl
@[simp] theorem Block.setXbuf_inst (b : Block F) (c : Channel) (l : List F) :
    (b.setXbuf c l).inst = b.inst := rfl
@[simp] theorem Block.setXbuf_acc (b : Block F) (c : Channel) (l : List F) :
    (b.setXbuf c l).acc = b.acc := rfl
@[simp] theorem Block.setXbuf_out (b : Block F) (c : Channel) (l : List F) :
    (b.setXbuf c l).out = b.out := rfl

/-! ## Block.setSpec -/

@[simp] theorem Block.setSpec_configured (b : Block F) (c : Channel) (l : List F) :
    (b.setSpec c l).configured = b.configured := rfl
@[simp] theorem Block.setSpec_outValid (b : Block F) (c : Channel) (l : List F) :
    (b.setSpec c l).outValid = b.outValid := rfl
@[simp] theorem Block.setSpec_err (b : Block F) (c : Channel) (l : List F) :
    (b.setSpec c l).err = b.err := rfl
@[simp] theorem Block.setSpec_cnt (b : Block F) (c : Channel) (l : List F) :
    (b.setSpec c l).cnt = b.cnt := rfl
@[simp] theorem Block.setSpec_blocksize (b : Block F) (c : Channel) (l : List F) :
    (b.setSpec c l).blocksize = b.blocksize := rfl
@[simp] theorem Block.setSpec_hopsize (b : Block F) (c : Channel) (l : List F) :
    (b.setSpec c l).hopsize = b.hopsize := rfl
@[simp] theorem Block.setSpec_samplerate (b : Block F) (c : Channel) (l : List F) :
    (b.setSpec c l).samplerate = b.samplerate := rfl
@[simp] theorem Block.setSpec_nch (b : Block F) (c : Channel) (l : List F) :
    (b.setSpec c l).nch = b.nch := rfl
@[simp] theorem Block.setSpec_inlen (b : Block F) (c : Channel) (l : List F) :
    (b.setSpec c l).inlen = b.inlen := rfl
@[simp] theorem Block.setSpec_ablock (b : Block F) (c : Channel) (l : List F) :
    (b.setSpec c l).ablock = b.ablock := rfl
@[simp] theorem Block.setSpec_ahop (b : Block F) (c : Channel) (l : List F) :
    (b.setSpec c l).ahop = b.ahop := rfl
@[simp] theorem Block.setSpec_afs (b : Block F) (c : Channel) (l : List F) :
    (b.setSpec c l).afs = b.afs := rfl
@[simp] theorem Block.setSpec_nfft (b : Block F) (c : Channel) (l : List F) :
    (b.setSpec c l).nfft = b.nfft := rfl
@[simp] theorem Block.setSpec_alpha (b : Block F) (c : Channel) (l : List F) :
    (b.setSpec c l).alpha = b.alpha := rfl
@[simp] theorem Block.setSpec_inp (b : Block F) (c : Channel) (l : List F) :
    (b.setSpec c l).inp = b.inp := rfl
@[simp] theorem Block.setSpec_win (b : Block F) (c : Channel) (l : List F) :
    (b.setSpec c l).win = b.win := rfl
@[simp] theorem Block.setSpec_xbuf (b : Block F) (c : Channel) (l : List F) :
    (b.setSpec c l).xbuf = b.xbuf := rfl
@[simp] theorem Block.setSpec_spec (b : Block F) (c : Channel) (l : List F) :
    (b.setSpec c l).spec = b.spec.set c l := rfl
@[simp] theorem Block.setSpec_conj (b : Block F) (c : Channel) (l : List F) :
    (b.setSpec c l).conj = b.conj := rfl
@[simp] theorem Block.setSpec_inst (b : Block F) (c : Channel) (l : List F) :
    (b.setSpec c l).inst = b.inst := rfl
@[simp] theorem Block.setSpec_acc (b : Block F) (c : Channel) (l : List F) :
    (b.setSpec c l).acc = b.acc := rfl
@[simp] theorem Block.setSpec_out (b : Block F) (c : Channel) (l : List F) :
    (b.setSpec c l).out = b.out := rfl

/-! ## Block.setConj -/

@[simp] theorem Block.setConj_configured (b : Block F) (c : Channel) (l : List F) :
    (b.setConj c l).configured = b.configured := rfl
@[simp] theorem Block.setConj_outValid (b : Block F) (c : Channel) (l : List F) :
    (b.setConj c l).outValid = b.outValid := rfl
@[simp] theorem Block.setConj_err (b : Block F) (c : Channel) (l : List F) :
    (b.setConj c l).err = b.err := rfl
@[simp] theorem Block.setConj_cnt (b : Block F) (c : Channel) (l : List F) :
    (b.setConj c l).cnt = b.cnt := rfl
@[simp] theorem Block.setConj_blocksize (b : Block F) (c : Channel) (l : List F) :
    (b.setConj c l).blocksize = b.blocksize := rfl
@[simp] theorem Block.setConj_hopsize (b : Block F) (c : Channel) (l : List F) :
    (b.setConj c l).hopsize = b.hopsize := rfl
@[simp] theorem Block.setConj_samplerate (b : Block F) (c : Channel) (l : List F) :
    (b.setConj c l).samplerate = b.samplerate := rfl
@[simp] theorem Block.setConj_nch (b : Block F) (c : Channel) (l : List F) :
    (b.setConj c l).nch = b.nch := rfl
@[simp] theorem Block.setConj_inlen (b : Block F) (c : Channel) (l : List F) :
    (b.setConj c l).inlen = b.inlen := rfl
@[simp] theorem Block.setConj_ablock (b : Block F) (c : Channel) (l : List F) :
    (b.setConj c l).ablock = b.ablock := rfl
@[simp] theorem Block.setConj_ahop (b : Block F) (c : Channel) (l : List F) :
    (b.setConj c l).ahop = b.ahop := rfl
@[simp] theorem Block.setConj_afs (b : Block F) (c : Channel) (l : List F) :
    (b.setConj c l).afs = b.afs := rfl
@[simp] theorem Block.setConj_nfft (b : Block F) (c : Channel) (l : List F) :
    (b.setConj c l).nfft = b.nfft := rfl
@[simp] theorem Block.setConj_alpha (b : Block F) (c : Channel) (l : List F) :
    (b.setConj c l).alpha = b.alpha := rfl
@[simp] theorem Block.setConj_inp (b : Block F) (c : Channel) (l : List F) :
    (b.setConj c l).inp = b.inp := rfl
@[simp] theorem Block.setConj_win (b : Block F) (c : Channel) (l : List F) :
    (b.setConj c l).win = b.win := rfl
@[simp] theorem Block.setConj_xbuf (b : Block F) (c : Channel) (l : List F) :
    (b.setConj c l).xbuf = b.xbuf := rfl
@[simp] theorem Block.setConj_spec (b : Block F) (c : Channel) (l : List F) :
    (b.setConj c l).spec = b.spec := rfl
@[simp] theorem Block.setConj_conj (b : Block F) (c : Channel) (l : List F) :
    (b.setConj c l).conj = b.conj.set c l := rfl
@[simp] theorem Block.setConj_inst (b : Block F) (c : Channel) (l : List F) :
    (b.setConj c l).inst = b.inst := rfl
@[simp] theorem Block.setConj_acc (b : Block F) (c : Channel) (l : List F) :
    (b.setConj c l).acc = b.acc := rfl
@[simp] theorem Block.setConj_out (b : Block F) (c : Channel) (l : List F) :
    (b.setConj c l).out = b.out := rfl

/-! ## Block.setInst -/

@[simp] theorem Block.setInst_configured (b : Block F) (k : Spectrum) (l : List F) :
    (b.setInst k l).configured = b.configured := rfl
@[simp] theorem Block.setInst_outValid (b : Block F) (k : Spectrum) (l : List F) :
    (b.setInst k l).outValid = b.outValid := rfl
@[simp] theorem Block.setInst_err (b : Block F) (k : Spectrum) (l : List F) :
    (b.setInst k l).err = b.err := rfl
@[simp] theorem Block.setInst_cnt (b : Block F) (k : Spectrum) (l : List F) :
    (b.setInst k l).cnt = b.cnt := rfl
@[simp] theorem Block.setInst_blocksize (b : Block F) (k : Spectrum) (l : List F) :
    (b.setInst k l).blocksize = b.blocksize := rfl
@[simp] theorem Block.setInst_hopsize (b : Block F) (k : Spectrum) (l : List F) :
    (b.setInst k l).hopsize = b.hopsize := rfl
@[simp] theorem Block.setInst_samplerate (b : Block F) (k : Spectrum) (l : List F) :
    (b.setInst k l).samplerate = b.samplerate := rfl
@[simp] theorem Block.setInst_nch (b : Block F) (k : Spectrum) (l : List F) :
    (b.setInst k l).nch = b.nch := rfl
@[simp] theorem Block.setInst_inlen (b : Block F) (k : Spectrum) (l : List F) :
    (b.setInst k l).inlen = b.inlen := rfl
@[simp] theorem Block.setInst_ablock (b : Block F) (k : Spectrum) (l : List F) :
    (b.setInst k l).ablock = b.ablock := rfl
@[simp] theorem Block.setInst_ahop (b : Block F) (k : Spectrum) (l : List F) :
    (b.setInst k l).ahop = b.ahop := rfl
@[simp] theorem Block.setInst_afs (b : Block F) (k : Spectrum) (l : List F) :
    (b.setInst k l).afs = b.afs := rfl
@[simp] theorem Block.setInst_nfft (b : Block F) (k : Spectrum) (l : List F) :
    (b.setInst k l).nfft = b.nfft := rfl
@[simp] theorem Block.setInst_alpha (b : Block F) (k : Spectrum) (l : List F) :
    (b.setInst k l).alpha = b.alpha := rfl
@[simp] theorem Block.setInst_inp (b : Block F) (k : Spectrum) (l : List F) :
    (b.setInst k l).inp = b.inp := rfl
@[simp] theorem Block.setInst_win (b : Block F) (k : Spectrum) (l : List F) :
    (b.setInst k l).win = b.win := rfl
@[simp] theorem Block.setInst_xbuf (b : Block F) (k : Spectrum) (l : List F) :
    (b.setInst k l).xbuf = b.xbuf := rfl
@[simp] theorem Block.setInst_spec (b : Block F) (k : Spectrum) (l : List F) :
    (b.setInst k l).spec = b.spec := rfl
@[simp] theorem Block.setInst_conj (b : Block F) (k : Spectrum) (l : List F) :
    (b.setInst k l).conj = b.conj := rfl
@[simp] theorem Block.setInst_inst (b : Block F) (k : Spectrum) (l : List F) :
    (b.setInst k l).inst = b.inst.set k l := rfl
@[simp] theorem Block.setInst_acc (b : Block F) (k : Spectrum) (l : List F) :
    (b.setInst k l).acc = b.acc := rfl
@[simp] theorem Block.setInst_out (b : Block F) (k : Spectrum) (l : List F) :
    (b.setInst k l).out = b.out := rfl

/-! ## Block.setAcc -/

@[simp] theorem Block.setAcc_configured (b : Block F) (k : Spectrum) (l : List F) :
    (b.setAcc k l).configured = b.configured := rfl
@[simp] theorem Block.setAcc_outValid (b : Block F) (k : Spectrum) (l : List F) :
    (b.setAcc k l).outValid = b.outValid := rfl
@[simp] theorem Block.setAcc_err (b : Block F) (k : Spectrum) (l : List F) :
    (b.setAcc k l).err = b.err := rfl
@[simp] theorem Block.setAcc_cnt (b : Block F) (k : Spectrum) (l : List F) :
    (b.setAcc k l).cnt = b.cnt := rfl
@[simp] theorem Block.setAcc_blocksize (b : Block F) (k : Spectrum) (l : List F) :
    (b.setAcc k l).blocksize = b.blocksize := rfl
@[simp] theorem Block.setAcc_hopsize (b : Block F) (k : Spectrum) (l : List F) :
    (b.setAcc k l).hopsize = b.hopsize := rfl
@[simp] theorem Block.setAcc_samplerate (b : Block F) (k : Spectrum) (l : List F) :
    (b.setAcc k l).samplerate = b.samplerate := rfl
@[simp] theorem Block.setAcc_nch (b : Block F) (k : Spectrum) (l : List F) :
    (b.setAcc k l).nch = b.nch := rfl
@[simp] theorem Block.setAcc_inlen (b : Block F) (k : Spectrum) (l : List F) :
    (b.setAcc k l).inlen = b.inlen := rfl
@[simp] theorem Block.setAcc_ablock (b : Block F) (k : Spectrum) (l : List F) :
    (b.setAcc k l).ablock = b.ablock := rfl
@[simp] theorem Block.setAcc_ahop (b : Block F) (k : Spectrum) (l : List F) :
    (b.setAcc k l).ahop = b.ahop := rfl
@[simp] theorem Block.setAcc_afs (b : Block F) (k : Spectrum) (l : List F) :
    (b.setAcc k l).afs = b.afs := rfl
@[simp] theorem Block.setAcc_nfft (b : Block F) (k : Spectrum) (l : List F) :
    (b.setAcc k l).nfft = b.nfft := rfl
@[simp] theorem Block.setAcc_alpha (b : Block F) (k : Spectrum) (l : List F) :
    (b.setAcc k l).alpha = b.alpha := rfl
@[simp] theorem Block.setAcc_inp (b : Block F) (k : Spectrum) (l : List F) :
    (b.setAcc k l).inp = b.inp := rfl
@[simp] theorem Block.setAcc_win (b : Block F) (k : Spectrum) (l : List F) :
    (b.setAcc k l).win = b.win := rfl
@[simp] theorem Block.setAcc_xbuf (b : Block F) (k : Spectrum) (l : List F) :
    (b.setAcc k l).xbuf = b.xbuf := rfl
@[simp] theorem Block.setAcc_spec (b : Block F) (k : Spectrum) (l : List F) :
    (b.setAcc k l).spec = b.spec := rfl
@[simp] theorem Block.setAcc_conj (b : Block F) (k : Spectrum) (l : List F) :
    (b.setAcc k l).conj = b.conj := rfl
@[simp] theorem Block.setAcc_inst (b : Block F) (k : Spectrum) (l : List F) :
    (b.setAcc k l).inst = b.inst := rfl
@[simp] theorem Block.setAcc_acc (b : Block F) (k : Spectrum) (l : List F) :
    (b.setAcc k l).acc = b.acc.set k l := rfl
@[simp] theorem Block.setAcc_out (b : Block F) (k : Spectrum) (l : List F) :
    (b.setAcc k l).out = b.out := rfl

/-! ## Block.setOut -/

@[simp] theorem Block.setOut_configured (b : Block F) (o : PerSpectrum (List F)) :
    (b.setOut o).configured = b.configured := rfl
@[simp] theorem Block.setOut_outValid (b : Block F) (o : PerSpectrum (List F)) :
    (b.setOut o).outValid = b.outValid := rfl
@[simp] theorem Block.setOut_err (b : Block F) (o : PerSpectrum (List F)) :
    (b.setOut o).err = b.err := rfl
@[simp] theorem Block.setOut_cnt (b : Block F) (o : PerSpectrum (List F)) :
    (b.setOut o).cnt = b.cnt := rfl
@[simp] theorem Block.setOut_blocksize (b : Block F) (o : PerSpectrum (List F)) :
    (b.setOut o).blocksize = b.blocksize := rfl
@[simp] theorem Block.setOut_hopsize (b : Block F) (o : PerSpectrum (List F)) :
    (b.setOut o).hopsize = b.hopsize := rfl
@[simp] theorem Block.setOut_samplerate (b : Block F) (o : PerSpectrum (List F)) :
    (b.setOut o).samplerate = b.samplerate := rfl
@[simp] theorem Block.setOut_nch (b : Block F) (o : PerSpectrum (List F)) :
    (b.setOut o).nch = b.nch := rfl
@[simp] theorem Block.setOut_inlen (b : Block F) (o : PerSpectrum (List F)) :
    (b.setOut o).inlen = b.inlen := rfl
@[simp] theorem Block.setOut_ablock (b : Block F) (o : PerSpectrum (List F)) :
    (b.setOut o).ablock = b.ablock := rfl
@[simp] theorem Block.setOut_ahop (b : Block F) (o : PerSpectrum (List F)) :
    (b.setOut o).ahop = b.ahop := rfl
@[simp] theorem Block.setOut_afs (b : Block F) (o : PerSpectrum (List F)) :
    (b.setOut o).afs = b.afs := rfl
@[simp] theorem Block.setOut_nfft (b : Block F) (o : PerSpectrum (List F)) :
    (b.setOut o).nfft = b.nfft := rfl
@[simp] theorem Block.setOut_alpha (b : Block F) (o : PerSpectrum (List F)) :
    (b.setOut o).alpha = b.alpha := rfl
@[simp] theorem Block.setOut_inp (b : Block F) (o : PerSpectrum (List F)) :
    (b.setOut o).inp = b.inp := rfl
@[simp] theorem Block.setOut_win (b : Block F) (o : PerSpectrum (List F)) :
    (b.setOut o).win = b.win := rfl
@[simp] theorem Block.setOut_xbuf (b : Block F) (o : PerSpectrum (List F)) :
    (b.setOut o).xbuf = b.xbuf := rfl
@[simp] theorem Block.setOut_spec (b : Block F) (o : PerSpectrum (List F)) :
    (b.setOut o).spec = b.spec := rfl
@[simp] theorem Block.setOut_conj (b : Block F) (o : PerSpectrum (List F)) :
    (b.setOut o).conj = b.conj := rfl
@[simp] theorem Block.setOut_inst (b : Block F) (o : PerSpectrum (List F)) :
    (b.setOut o).inst = b.inst := rfl
@[simp] theorem Block.setOut_acc (b : Block F) (o : PerSpectrum (List F)) :
    (b.setOut o).acc = b.acc := rfl
@[simp] theorem Block.setOut_out (b : Block F) (o : PerSpectrum (List F)) :
    (b.setOut o).out = o := rfl

/-! ## Block.setCount -/

@[simp] theorem Block.setCount_configured (b : Block F) (n : BitVec 4) (v : Bool) :
    (b.setCount n v).configured = b.configured := rfl
@[simp] theorem Block.setCount_outValid (b : Block F) (n : BitVec 4) (v : Bool) :
    (b.setCount n v).outValid = v := rfl
@[simp] theorem Block.setCount_err (b : Block F) (n : BitVec 4) (v : Bool) :
    (b.setCount n v).err = b.err := rfl
@[simp] theorem Block.setCount_cnt (b : Block F) (n : BitVec 4) (v : Bool) :
    (b.setCount n v).cnt = n := rfl
@[simp] theorem Block.setCount_blocksize (b : Block F) (n : BitVec 4) (v : Bool) :
    (b.setCount n v).blocksize = b.blocksize := rfl
@[simp] theorem Block.setCount_hopsize (b : Block F) (n : BitVec 4) (v : Bool) :
    (b.setCount n v).hopsize = b.hopsize := rfl
@[simp] theorem Block.setCount_samplerate (b : Block F) (n : BitVec 4) (v : Bool) :
    (b.setCount n v).samplerate = b.samplerate := rfl
@[simp] theorem Block.setCount_nch (b : Block F) (n : BitVec 4) (v : Bool) :
    (b.setCount n v).nch = b.nch := rfl
@[simp] theorem Block.setCount_inlen (b : Block F) (n : BitVec 4) (v : Bool) :
    (b.setCount n v).inlen = b.inlen := rfl
@[simp] theorem Block.setCount_ablock (b : Block F) (n : BitVec 4) (v : Bool) :
    (b.setCount n v).ablock = b.ablock := rfl
@[simp] theorem Block.setCount_ahop (b : Block F) (n : BitVec 4) (v : Bool) :
    (b.setCount n v).ahop = b.ahop := rfl
@[simp] theorem Block.setCount_afs (b : Block F) (n : BitVec 4) (v : Bool) :
    (b.setCount n v).afs = b.afs := rfl
@[simp] theorem Block.setCount_nfft (b : Block F) (n : BitVec 4) (v : Bool) :
    (b.setCount n v).nfft = b.nfft := rfl
@[simp] theorem Block.setCount_alpha (b : Block F) (n : BitVec 4) (v : Bool) :
    (b.setCount n v).alpha = b.alpha := rfl
@[simp] theorem Block.setCount_inp (b : Block F) (n : BitVec 4) (v : Bool) :
    (b.setCount n v).inp = b.inp := rfl
@[simp] theorem Block.setCount_win (b : Block F) (n : BitVec 4) (v : Bool) :
    (b.setCount n v).win = b.win := rfl
@[simp] theorem Block.setCount_xbuf (b : Block F) (n : BitVec 4) (v : Bool) :
    (b.setCount n v).xbuf = b.xbuf := rfl
@[simp] theorem Block.setCount_spec (b : Block F) (n : BitVec 4) (v : Bool) :
    (b.setCount n v).spec = b.spec := rfl
@[simp] theorem Block.setCount_conj (b : Block F) (n : BitVec 4) (v : Bool) :
    (b.setCount n v).conj = b.conj := rfl
@[simp] theorem Block.setCount_inst (b : Block F) (n : BitVec 4) (v : Bool) :
    (b.setCount n v).inst = b.inst := rfl
@[simp] theorem Block.setCount_acc (b : Block F) (n : BitVec 4) (v : Bool) :
    (b.setCount n v).acc = b.acc := rfl
@[simp] theorem Block.setCount_out (b : Block F) (n : BitVec 4) (v : Bool) :
    (b.setCount n v).out = b.out := rfl

/-! ## Block.destroy -/

@[simp] theorem Block.destroy_configured (b : Block F) (z : F) :
    (b.destroy z).configured = false := rfl
@[simp] theorem Block.destroy_outValid (b : Block F) (z : F) :
    (b.destroy z).outValid = false := rfl
@[simp] theorem Block.destroy_err (b : Block F) (z : F) :
    (b.destroy z).err = b.err := rfl
@[simp] theorem Block.destroy_cnt (b : Block F) (z : F) :
    (b.destroy z).cnt = 0#4 := rfl
@[simp] theorem Block.destroy_blocksize (b : Block F) (z : F) :
    (b.destroy z).blocksize = b.blocksize := rfl
@[simp] theorem Block.destroy_hopsize (b : Block F) (z : F) :
    (b.destroy z).hopsize = b.hopsize := rfl
@[simp] theorem Block.destroy_samplerate (b : Block F) (z : F) :
    (b.destroy z).samplerate = b.samplerate := rfl
@[simp] theorem Block.destroy_nch (b : Block F) (z : F) :
    (b.destroy z).nch = b.nch := rfl
@[simp] theorem Block.destroy_inlen (b : Block F) (z : F) :
    (b.destroy z).inlen = b.inlen := rfl
@[simp] theorem Block.destroy_ablock (b : Block F) (z : F) :
    (b.destroy z).ablock = 0#32 := rfl
@[simp] theorem Block.destroy_ahop (b : Block F) (z : F) :
    (b.destroy z).ahop = 0#32 := rfl
@[simp] theorem Block.destroy_afs (b : Block F) (z : F) :
    (b.destroy z).afs = z := rfl
@[simp] theorem Block.destroy_nfft (b : Block F) (z : F) :
    (b.destroy z).nfft = 0#32 := rfl
@[simp] theorem Block.destroy_alpha (b : Block F) (z : F) :
    (b.destroy z).alpha = z := rfl
@[simp] theorem Block.destroy_inp (b : Block F) (z : F) :
    (b.destroy z).inp = b.inp := rfl
@[simp] theorem Block.destroy_win (b : Block F) (z : F) :
    (b.destroy z).win = [] := rfl
@[simp] theorem Block.destroy_xbuf (b : Block F) (z : F) :
    (b.destroy z).xbuf = ⟨[], []⟩ := rfl
@[simp] theorem Block.destroy_spec (b : Block F) (z : F) :
    (b.destroy z).spec = ⟨[], []⟩ := rfl
@[simp] theorem Block.destroy_conj (b : Block F) (z : F) :
    (b.destroy z).conj = ⟨[], []⟩ := rfl
@[simp] theorem Block.destroy_inst (b : Block F) (z : F) :
    (b.destroy z).inst = ⟨[], [], []⟩ := rfl
@[simp] theorem Block.destroy_acc (b : Block F) (z : F) :
    (b.destroy z).acc = ⟨[], [], []⟩ := rfl
@[simp] theorem Block.destroy_out (b : Block F) (z : F) :
    (b.destroy z).out = ⟨[], [], []⟩ := rfl

/-! ## Lengths that only read registers -/

@[simp] theorem Block.raise_blockLen (b : Block F) (e : Completion) :
    (b.raise e).blockLen = b.blockLen := rfl
@[simp] theorem Block.raise_fftLen (b : Block F) (e : Completion) :
    (b.raise e).fftLen = b.fftLen := rfl
@[simp] theorem Block.complete_blockLen (b : Block F) :
    (b.complete).blockLen = b.blockLen := rfl
@[simp] theorem Block.complete_fftLen (b : Block F) :
    (b.complete).fftLen = b.fftLen := rfl
@[simp] theorem Block.setXbuf_blockLen (b : Block F) (c : Channel) (l : List F) :
    (b.setXbuf c l).blockLen = b.blockLen := rfl
@[simp] theorem Block.setXbuf_fftLen (b : Block F) (c : Channel) (l : List F) :
    (b.setXbuf c l).fftLen = b.fftLen := rfl
@[simp] theorem Block.setSpec_blockLen (b : Block F) (c : Channel) (l : List F) :
    (b.setSpec c l).blockLen = b.blockLen := rfl
@[simp] theorem Block.setSpec_fftLen (b : Block F) (c : Channel) (l : List F) :
    (b.setSpec c l).fftLen = b.fftLen := rfl
@[simp] theorem Block.setConj_blockLen (b : Block F) (c : Channel) (l : List F) :
    (b.setConj c l).blockLen = b.blockLen := rfl
@[simp] theorem Block.setConj_fftLen (b : Block F) (c : Channel) (l : List F) :
    (b.setConj c l).fftLen = b.fftLen := rfl
@[simp] theorem Block.setInst_blockLen (b : Block F) (k : Spectrum) (l : List F) :
    (b.setInst k l).blockLen = b.blockLen := rfl
@[simp] theorem Block.setInst_fftLen (b : Block F) (k : Spectrum) (l : List F) :
    (b.setInst k l).fftLen = b.fftLen := rfl
@[simp] theorem Block.setAcc_blockLen (b : Block F) (k : Spectrum) (l : List F) :
    (b.setAcc k l).blockLen = b.blockLen := rfl
@[simp] theorem Block.setAcc_fftLen (b : Block F) (k : Spectrum) (l : List F) :
    (b.setAcc k l).fftLen = b.fftLen := rfl
@[simp] theorem Block.setOut_blockLen (b : Block F) (o : PerSpectrum (List F)) :
    (b.setOut o).blockLen = b.blockLen := rfl
@[simp] theorem Block.setOut_fftLen (b : Block F) (o : PerSpectrum (List F)) :
    (b.setOut o).fftLen = b.fftLen := rfl
@[simp] theorem Block.setCount_blockLen (b : Block F) (n : BitVec 4) (v : Bool) :
    (b.setCount n v).blockLen = b.blockLen := rfl
@[simp] theorem Block.setCount_fftLen (b : Block F) (n : BitVec 4) (v : Bool) :
    (b.setCount n v).fftLen = b.fftLen := rfl

/-! ## The machine -/

@[simp] theorem State.withBlock_block (s : State) (b : Block B64) :
    (s.withBlock b).block = b := rfl
@[simp] theorem State.withBlock_pending (s : State) (b : Block B64) :
    (s.withBlock b).pending = s.pending := rfl
@[simp] theorem State.withBlock_response (s : State) (b : Block B64) :
    (s.withBlock b).response = s.response := rfl
@[simp] theorem State.withBlock_epoch (s : State) (b : Block B64) :
    (s.withBlock b).epoch = s.epoch := rfl
@[simp] theorem State.respond_block (s : State) (r : Response B64) :
    (s.respond r).block = s.block := rfl
@[simp] theorem State.respond_pending (s : State) (r : Response B64) :
    (s.respond r).pending = s.pending := rfl
@[simp] theorem State.respond_response (s : State) (r : Response B64) :
    (s.respond r).response = some r := rfl
@[simp] theorem State.respond_epoch (s : State) (r : Response B64) :
    (s.respond r).epoch = s.epoch := rfl
@[simp] theorem State.busError_block (s : State) :
    (s.busError).block = s.block := rfl
@[simp] theorem State.busError_pending (s : State) :
    (s.busError).pending = s.pending := rfl
@[simp] theorem State.busError_response (s : State) :
    (s.busError).response = some .busError := rfl
@[simp] theorem State.busError_epoch (s : State) :
    (s.busError).epoch = s.epoch := rfl
@[simp] theorem State.resetPulse_block (s : State) :
    (s.resetPulse).block = Block.reset 0#64 := rfl
@[simp] theorem State.resetPulse_pending (s : State) :
    (s.resetPulse).pending = s.pending := rfl
@[simp] theorem State.resetPulse_response (s : State) :
    (s.resetPulse).response = none := rfl
@[simp] theorem State.resetPulse_epoch (s : State) :
    (s.resetPulse).epoch = s.epoch + 1 := rfl

end Sys2Proof.Machine
end

