-- ==== Sys2Proof/Laws/Ops.lean ====
section
/-!
SUPPORT. What each shared operation can do, said once: operands, input memory, loops over a bank, and
how a command ends.
-/

namespace Sys2Proof.Machine

variable {F : Type} {α : Type}

/-! ## Operands -/

@[simp] theorem PerChannel.get_set_same (p : PerChannel α) (c : Channel) (a : α) :
    (p.set c a).get c = a := by cases c <;> rfl

theorem PerChannel.get_set_other (p : PerChannel α) {c d : Channel} (a : α) (h : d ≠ c) :
    (p.set c a).get d = p.get d := by cases c <;> cases d <;> first | rfl | exact absurd rfl h

@[simp] theorem PerSpectrum.get_set_same (p : PerSpectrum α) (k : Spectrum) (a : α) :
    (p.set k a).get k = a := by cases k <;> rfl

theorem PerSpectrum.get_set_other (p : PerSpectrum α) {k j : Spectrum} (a : α) (h : j ≠ k) :
    (p.set k a).get j = p.get j := by cases k <;> cases j <;> first | rfl | exact absurd rfl h

/-- A channel's number names that channel. -/
@[simp] theorem channelOf_number (c : Channel) :
    channelOf (BitVec.ofNat 8 (channelNumber c)) = some c := by cases c <;> rfl

/-- A spectrum's number names that spectrum. -/
@[simp] theorem spectrumOf_number (k : Spectrum) :
    spectrumOf (BitVec.ofNat 8 (spectrumNumber k)) = some k := by cases k <;> rfl

/-- An ARG field names a channel exactly when it is 0 or 1. -/
theorem channelOf_isSome (arg : BitVec 8) : (channelOf arg).isSome = true ↔ arg.toNat < 2 := by
  unfold channelOf
  split
  · simp_all
  · split
    · simp_all
    · rename_i h0 h1
      have h0' : arg.toNat ≠ 0 := fun h => h0 (BitVec.eq_of_toNat_eq h)
      have h1' : arg.toNat ≠ 1 := fun h => h1 (BitVec.eq_of_toNat_eq h)
      simp only [Option.isSome_none, Bool.false_eq_true, false_iff]
      omega

/-- An ARG field names a spectrum exactly when it is 0, 1 or 2. -/
theorem spectrumOf_isSome (arg : BitVec 8) : (spectrumOf arg).isSome = true ↔ arg.toNat < 3 := by
  unfold spectrumOf
  split
  · simp_all
  · split
    · simp_all
    · split
      · simp_all
      · rename_i h0 h1 h2
        have h0' : arg.toNat ≠ 0 := fun h => h0 (BitVec.eq_of_toNat_eq h)
        have h1' : arg.toNat ≠ 1 := fun h => h1 (BitVec.eq_of_toNat_eq h)
        have h2' : arg.toNat ≠ 2 := fun h => h2 (BitVec.eq_of_toNat_eq h)
        simp only [Option.isSome_none, Bool.false_eq_true, false_iff]
        omega

/-! ## Input memory -/

/-- A read after a write to the same index gives the value written. -/
@[simp] theorem memRead_memWrite_same (m : Memory F) (i : Nat) (v : F) :
    memRead (memWrite m i v) i = some v := by
  induction m with
  | nil => simp [memWrite, memRead]
  | cons e rest ih =>
    obtain ⟨j, w⟩ := e
    simp only [memWrite]
    split
    · simp [memRead]
    · split
      · simp [memRead]
      · rename_i _ hne
        simp [memRead, ih, Ne.symm hne]

/-- A write leaves every other index alone. -/
theorem memRead_memWrite_other (m : Memory F) {i j : Nat} (v : F) (h : j ≠ i) :
    memRead (memWrite m i v) j = memRead m j := by
  induction m with
  | nil => simp [memWrite, memRead, Ne.symm h]
  | cons e rest ih =>
    obtain ⟨k, w⟩ := e
    simp only [memWrite]
    split
    · simp [memRead, Ne.symm h]
    · split
      · rename_i _ heq
        subst heq
        simp [memRead, Ne.symm h]
      · simp [memRead, ih]

/-- The canonical form of a memory with a first entry: every later index is larger. -/
theorem Memory.wf_cons (j : Nat) (w : F) (rest : Memory F) :
    Memory.wf ((j, w) :: rest) = true ↔ (∀ e ∈ rest, j < e.1) ∧ Memory.wf rest = true := by
  induction rest generalizing j w with
  | nil => simp [Memory.wf]
  | cons e rest ih =>
    obtain ⟨k, x⟩ := e
    simp only [Memory.wf, Bool.and_eq_true, decide_eq_true_eq, List.mem_cons, forall_eq_or_imp]
    constructor
    · rintro ⟨hjk, hwf⟩
      exact ⟨⟨hjk, fun e he => Nat.lt_trans hjk (((ih k x).mp hwf).1 e he)⟩, hwf⟩
    · rintro ⟨⟨hjk, _⟩, hwf⟩
      exact ⟨hjk, hwf⟩

/-- The indices a write lists are those listed before and the one written. -/
theorem mem_memWrite {m : Memory F} {i : Nat} {v : F} {e : Nat × F} (h : e ∈ memWrite m i v) :
    e = (i, v) ∨ e ∈ m := by
  induction m with
  | nil => simpa [memWrite] using h
  | cons d rest ih =>
    obtain ⟨j, w⟩ := d
    simp only [memWrite] at h
    split at h
    · simpa using h
    · split at h
      · rcases List.mem_cons.mp h with h | h
        · exact .inl h
        · exact .inr (List.mem_cons_of_mem _ h)
      · rcases List.mem_cons.mp h with h | h
        · exact .inr (h ▸ List.mem_cons_self)
        · exact (ih h).imp_right (List.mem_cons_of_mem _)

/-- A write keeps the canonical form. -/
theorem Memory.wf_memWrite {m : Memory F} (i : Nat) (v : F) (h : Memory.wf m = true) :
    Memory.wf (memWrite m i v) = true := by
  induction m with
  | nil => rfl
  | cons d rest ih =>
    obtain ⟨j, w⟩ := d
    have hc := (Memory.wf_cons j w rest).mp h
    simp only [memWrite]
    split
    · rename_i hij
      refine (Memory.wf_cons _ _ _).mpr ⟨?_, h⟩
      intro e he
      rcases List.mem_cons.mp he with rfl | he
      · exact hij
      · exact Nat.lt_trans hij (hc.1 e he)
    · split
      · rename_i _ heq
        subst heq
        exact (Memory.wf_cons _ _ _).mpr hc
      · rename_i hlt hne
        refine (Memory.wf_cons _ _ _).mpr ⟨?_, ih hc.2⟩
        intro e he
        rcases mem_memWrite he with rfl | he
        · have hlt' : ¬i < j := hlt
          have hne' : ¬i = j := hne
          change j < i
          omega
        · exact hc.1 e he

/-- Nothing listed is canonical. -/
@[simp] theorem Memory.wf_nil : Memory.wf ([] : Memory F) = true := rfl

/-- The memory of the reset state is canonical. -/
theorem reset_input_wf (zero : F) (c : Channel) :
    Memory.wf ((Block.reset zero).inp.get c) = true := by cases c <;> rfl

/-- A row read without a fault: its elements are those of the memory, in order. -/
theorem readRow_ok {m : Memory F} {count i : Nat} {row : List F}
    (h : readRow m count i = .ok row) :
    row.length = count ∧ ∀ n, n < count → row[n]? = memRead m (i + n) ∧ row[n]?.isSome = true := by
  induction count generalizing i row with
  | zero =>
    simp only [readRow, Except.ok.injEq] at h
    subst h
    simp
  | succ count ih =>
    simp only [readRow] at h
    split at h
    · cases h
    · rename_i v hv
      split at h
      · rename_i rest hrest
        simp only [Except.ok.injEq] at h
        subst h
        obtain ⟨hlen, hrow⟩ := ih hrest
        refine ⟨by simp [hlen], ?_⟩
        intro n hn
        cases n with
        | zero => simp [hv]
        | succ n =>
          have := hrow n (by omega)
          simpa [Nat.add_assoc, Nat.add_comm 1 n] using this
      · cases h

/-- A row read that faults names the first index nothing has written. -/
theorem readRow_error {m : Memory F} {count i j : Nat} (h : readRow m count i = .error j) :
    i ≤ j ∧ j < i + count ∧ memRead m j = none ∧
      ∀ n, i ≤ n → n < j → (memRead m n).isSome = true := by
  induction count generalizing i with
  | zero => simp [readRow] at h
  | succ count ih =>
    simp only [readRow] at h
    split at h
    · rename_i hnone
      simp only [Except.error.injEq] at h
      subst h
      exact ⟨Nat.le_refl _, by omega, hnone, fun n h1 h2 => by omega⟩
    · rename_i v hv
      split at h
      · cases h
      · rename_i j' hrest
        simp only [Except.error.injEq] at h
        subst h
        obtain ⟨h1, h2, h3, h4⟩ := ih hrest
        refine ⟨by omega, by omega, h3, ?_⟩
        intro n hn1 hn2
        by_cases hn : n = i
        · subst hn
          simp [hv]
        · exact h4 n (by omega) hn2

/-- A row whose elements are all written is read without a fault. -/
theorem readRow_of_written {m : Memory F} {count i : Nat}
    (h : ∀ n, i ≤ n → n < i + count → (memRead m n).isSome = true) :
    ∃ row, readRow m count i = .ok row := by
  cases hr : readRow m count i with
  | ok row => exact ⟨row, rfl⟩
  | error j =>
    obtain ⟨h1, h2, h3, _⟩ := readRow_error hr
    have := h j h1 h2
    simp [h3] at this

/-! ## Dense banks -/

theorem storeFrom_length (v : Nat → Option F) (i : Nat) (bank : List F) :
    (storeFrom v i bank).length = bank.length := by
  induction bank generalizing i with
  | nil => rfl
  | cons a rest ih => simp [storeFrom, ih]

theorem storeFrom_getElem? (v : Nat → Option F) (i : Nat) (bank : List F) (n : Nat) :
    (storeFrom v i bank)[n]? = bank[n]?.map fun old => (v (i + n)).getD old := by
  induction bank generalizing i n with
  | nil => simp [storeFrom]
  | cons a rest ih =>
    cases n with
    | zero => simp [storeFrom]
    | succ n => simp [storeFrom, ih, Nat.add_assoc, Nat.add_comm 1 n]

/-- A loop over a bank keeps its length. -/
@[simp] theorem storeElems_length (v : Nat → Option F) (bank : List F) :
    (storeElems v bank).length = bank.length := storeFrom_length v 0 bank

/-- Everything a loop over a bank does: element n takes the loop's value where it has one. -/
theorem storeElems_getElem? (v : Nat → Option F) (bank : List F) (n : Nat) :
    (storeElems v bank)[n]? = bank[n]?.map fun old => (v n).getD old := by
  simpa [storeElems] using storeFrom_getElem? v 0 bank n

/-- A loop that writes element n of a bank. -/
theorem storeElems_written {v : Nat → Option F} {bank : List F} {n : Nat} {x : F}
    (hv : v n = some x) (hn : n < bank.length) : (storeElems v bank)[n]? = some x := by
  simp [storeElems_getElem?, hv, List.getElem?_eq_getElem hn]

/-- A loop that does not write element n of a bank. -/
theorem storeElems_kept {v : Nat → Option F} (bank : List F) {n : Nat} (hv : v n = none) :
    (storeElems v bank)[n]? = bank[n]? := by
  simp [storeElems_getElem?, hv]

/-- An element inside a bank is read as it stands. -/
theorem elem_of_lt (num : Num F) {bank : List F} {n : Nat} (h : n < bank.length) :
    bank[n]? = some (elem num bank n) := by
  simp [elem, List.getElem?_eq_getElem h]

/-- The first n elements are n elements. -/
@[simp] theorem firstElems_length (num : Num F) (n : Nat) (l : List F) :
    (firstElems num n l).length = n := by
  induction n generalizing l with
  | zero => rfl
  | succ n ih => cases l <;> simp [firstElems, ih]

/-- The first elements of a list of that length are the list. -/
theorem firstElems_eq_self (num : Num F) {n : Nat} {l : List F} (h : l.length = n) :
    firstElems num n l = l := by
  induction n generalizing l with
  | zero => simp [firstElems, List.length_eq_zero_iff.mp h]
  | succ n ih =>
    cases l with
    | nil => simp at h
    | cons a rest => simp [firstElems, ih (by simpa using h)]

/-! ## How a command ends -/

/-- Everything a command without an input check can do. -/
theorem Block.command_cases (effect : Block F → Block F) (b : Block F) :
    (b.configured = false ∧ b.command effect = b.raise .notConfigured) ∨
    (b.configured = true ∧ b.command effect = (effect b).complete) := by
  unfold Block.command
  cases b.configured <;> simp

/-- Everything a command with an input check can do. -/
theorem Block.checkedCommand_cases (bad : Block F → Bool)
    (effect : Block F → Except Fault (Block F)) (b : Block F) :
    (b.configured = false ∧ b.checkedCommand bad effect = .ok (b.raise .notConfigured)) ∨
    (b.configured = true ∧ bad b = true ∧
      b.checkedCommand bad effect = .ok (b.raise .invalidInput)) ∨
    (b.configured = true ∧ bad b = false ∧
      b.checkedCommand bad effect = (effect b).map Block.complete) := by
  unfold Block.checkedCommand
  cases b.configured <;> cases bad b <;> simp

end Sys2Proof.Machine
end

