-- ==== Sys2Proof/Laws/PerInstr.lean ====
section
/-!
SUPPORT. The facts stated command by command: the fields of the encoded word are those of the
command's row in the opcode map (30_encoding.md R81, R82, R83).
-/

namespace Sys2Proof.Laws.EncodedFields

open Sys2Proof

/-- The three fields of the command's word: its opcode, its operand (0 where it has none), and zeros
(30_encoding.md R82). -/
def Statement (i : Instr) : Prop :=
  opField (encode i) = i.opcode ∧ argField (encode i) = i.argument ∧ zeroField (encode i) = 0#16

/-- Bit i of three parts put together. -/
theorem getLsbD_parts (arg op : BitVec 8) (i : Nat) :
    (0#16 ++ arg ++ op : BitVec (16 + 8 + 8)).getLsbD i =
      if i < 8 then op.getLsbD i else arg.getLsbD (i - 8) := by
  rw [BitVec.getLsbD_append]
  split
  · rfl
  · rw [BitVec.getLsbD_append]
    split
    · rfl
    · rw [BitVec.getLsbD_of_ge arg _ (by omega)]
      simp

/-- The fields of three parts put together are the parts. -/
theorem fields_of_parts (arg op : BitVec 8) :
    opField (0#16 ++ arg ++ op : BitVec (16 + 8 + 8)) = op ∧
      argField (0#16 ++ arg ++ op : BitVec (16 + 8 + 8)) = arg ∧
      zeroField (0#16 ++ arg ++ op : BitVec (16 + 8 + 8)) = 0#16 := by
  refine ⟨?_, ?_, ?_⟩ <;> apply BitVec.eq_of_getLsbD_eq <;> intro i hi
  · rw [opField, BitVec.getLsbD_extractLsb', getLsbD_parts, Nat.zero_add, if_pos hi]
    simp [hi]
  · rw [argField, BitVec.getLsbD_extractLsb', getLsbD_parts, if_neg (by omega)]
    simp [hi]
  · rw [zeroField, BitVec.getLsbD_extractLsb', getLsbD_parts, if_neg (by omega)]
    simp [BitVec.getLsbD_of_ge arg (16 + i - 8) (by omega)]

theorem nop : Statement .nop := fields_of_parts _ _
theorem config : Statement .config := fields_of_parts _ _
theorem process : Statement .process := fields_of_parts _ _
theorem win (arg : BitVec 8) : Statement (.win arg) := fields_of_parts _ _
theorem fft (arg : BitVec 8) : Statement (.fft arg) := fields_of_parts _ _
theorem conj (arg : BitVec 8) : Statement (.conj arg) := fields_of_parts _ _
theorem cmul (arg : BitVec 8) : Statement (.cmul arg) := fields_of_parts _ _
theorem smooth (arg : BitVec 8) : Statement (.smooth arg) := fields_of_parts _ _
theorem tick : Statement .tick := fields_of_parts _ _

end Sys2Proof.Laws.EncodedFields
end

