-- ==== Sys2Proof/Laws/Units.lean ====
section
/-!
SUPPORT. What each unit leaves alone, field by field, and what it can do, said once: the effects of
the step commands, of TICK, of CONFIG and of PROCESS.
-/

namespace Sys2Proof.Machine

variable {F : Type}

/-! ## fftEffect -/

@[simp] theorem fftEffect_configured (p : Params F) (c : Channel) (b : Block F) :
    (fftEffect p c b).configured = b.configured := rfl
@[simp] theorem fftEffect_outValid (p : Params F) (c : Channel) (b : Block F) :
    (fftEffect p c b).outValid = b.outValid := rfl
@[simp] theorem fftEffect_err (p : Params F) (c : Channel) (b : Block F) :
    (fftEffect p c b).err = b.err := rfl
@[simp] theorem fftEffect_cnt (p : Params F) (c : Channel) (b : Block F) :
    (fftEffect p c b).cnt = b.cnt := rfl
@[simp] theorem fftEffect_blocksize (p : Params F) (c : Channel) (b : Block F) :
    (fftEffect p c b).blocksize = b.blocksize := rfl
@[simp] theorem fftEffect_hopsize (p : Params F) (c : Channel) (b : Block F) :
    (fftEffect p c b).hopsize = b.hopsize := rfl
@[simp] theorem fftEffect_samplerate (p : Params F) (c : Channel) (b : Block F) :
    (fftEffect p c b).samplerate = b.samplerate := rfl
@[simp] theorem fftEffect_nch (p : Params F) (c : Channel) (b : Block F) :
    (fftEffect p c b).nch = b.nch := rfl
@[simp] theorem fftEffect_inlen (p : Params F) (c : Channel) (b : Block F) :
    (fftEffect p c b).inlen = b.inlen := rfl
@[simp] theorem fftEffect_ablock (p : Params F) (c : Channel) (b : Block F) :
    (fftEffect p c b).ablock = b.ablock := rfl
@[simp] theorem fftEffect_ahop (p : Params F) (c : Channel) (b : Block F) :
    (fftEffect p c b).ahop = b.ahop := rfl
@[simp] theorem fftEffect_afs (p : Params F) (c : Channel) (b : Block F) :
    (fftEffect p c b).afs = b.afs := rfl
@[simp] theorem fftEffect_nfft (p : Params F) (c : Channel) (b : Block F) :
    (fftEffect p c b).nfft = b.nfft := rfl
@[simp] theorem fftEffect_alpha (p : Params F) (c : Channel) (b : Block F) :
    (fftEffect p c b).alpha = b.alpha := rfl
@[simp] theorem fftEffect_inp (p : Params F) (c : Channel) (b : Block F) :
    (fftEffect p c b).inp = b.inp := rfl
@[simp] theorem fftEffect_win (p : Params F) (c : Channel) (b : Block F) :
    (fftEffect p c b).win = b.win := rfl
@[simp] theorem fftEffect_xbuf (p : Params F) (c : Channel) (b : Block F) :
    (fftEffect p c b).xbuf = b.xbuf := rfl
@[simp] theorem fftEffect_conj (p : Params F) (c : Channel) (b : Block F) :
    (fftEffect p c b).conj = b.conj := rfl
@[simp] theorem fftEffect_inst (p : Params F) (c : Channel) (b : Block F) :
    (fftEffect p c b).inst = b.inst := rfl
@[simp] theorem fftEffect_acc (p : Params F) (c : Channel) (b : Block F) :
    (fftEffect p c b).acc = b.acc := rfl
@[simp] theorem fftEffect_out (p : Params F) (c : Channel) (b : Block F) :
    (fftEffect p c b).out = b.out := rfl
@[simp] theorem fftEffect_blockLen (p : Params F) (c : Channel) (b : Block F) :
    (fftEffect p c b).blockLen = b.blockLen := rfl
@[simp] theorem fftEffect_fftLen (p : Params F) (c : Channel) (b : Block F) :
    (fftEffect p c b).fftLen = b.fftLen := rfl

/-! ## conjEffect -/

@[simp] theorem conjEffect_configured (p : Params F) (c : Channel) (b : Block F) :
    (conjEffect p c b).configured = b.configured := rfl
@[simp] theorem conjEffect_outValid (p : Params F) (c : Channel) (b : Block F) :
    (conjEffect p c b).outValid = b.outValid := rfl
@[simp] theorem conjEffect_err (p : Params F) (c : Channel) (b : Block F) :
    (conjEffect p c b).err = b.err := rfl
@[simp] theorem conjEffect_cnt (p : Params F) (c : Channel) (b : Block F) :
    (conjEffect p c b).cnt = b.cnt := rfl
@[simp] theorem conjEffect_blocksize (p : Params F) (c : Channel) (b : Block F) :
    (conjEffect p c b).blocksize = b.blocksize := rfl
@[simp] theorem conjEffect_hopsize (p : Params F) (c : Channel) (b : Block F) :
    (conjEffect p c b).hopsize = b.hopsize := rfl
@[simp] theorem conjEffect_samplerate (p : Params F) (c : Channel) (b : Block F) :
    (conjEffect p c b).samplerate = b.samplerate := rfl
@[simp] theorem conjEffect_nch (p : Params F) (c : Channel) (b : Block F) :
    (conjEffect p c b).nch = b.nch := rfl
@[simp] theorem conjEffect_inlen (p : Params F) (c : Channel) (b : Block F) :
    (conjEffect p c b).inlen = b.inlen := rfl
@[simp] theorem conjEffect_ablock (p : Params F) (c : Channel) (b : Block F) :
    (conjEffect p c b).ablock = b.ablock := rfl
@[simp] theorem conjEffect_ahop (p : Params F) (c : Channel) (b : Block F) :
    (conjEffect p c b).ahop = b.ahop := rfl
@[simp] theorem conjEffect_afs (p : Params F) (c : Channel) (b : Block F) :
    (conjEffect p c b).afs = b.afs := rfl
@[simp] theorem conjEffect_nfft (p : Params F) (c : Channel) (b : Block F) :
    (conjEffect p c b).nfft = b.nfft := rfl
@[simp] theorem conjEffect_alpha (p : Params F) (c : Channel) (b : Block F) :
    (conjEffect p c b).alpha = b.alpha := rfl
@[simp] theorem conjEffect_inp (p : Params F) (c : Channel) (b : Block F) :
    (conjEffect p c b).inp = b.inp := rfl
@[simp] theorem conjEffect_win (p : Params F) (c : Channel) (b : Block F) :
    (conjEffect p c b).win = b.win := rfl
@[simp] theorem conjEffect_xbuf (p : Params F) (c : Channel) (b : Block F) :
    (conjEffect p c b).xbuf = b.xbuf := rfl
@[simp] theorem conjEffect_spec (p : Params F) (c : Channel) (b : Block F) :
    (conjEffect p c b).spec = b.spec := rfl
@[simp] theorem conjEffect_inst (p : Params F) (c : Channel) (b : Block F) :
    (conjEffect p c b).inst = b.inst := rfl
@[simp] theorem conjEffect_acc (p : Params F) (c : Channel) (b : Block F) :
    (conjEffect p c b).acc = b.acc := rfl
@[simp] theorem conjEffect_out (p : Params F) (c : Channel) (b : Block F) :
    (conjEffect p c b).out = b.out := rfl
@[simp] theorem conjEffect_blockLen (p : Params F) (c : Channel) (b : Block F) :
    (conjEffect p c b).blockLen = b.blockLen := rfl
@[simp] theorem conjEffect_fftLen (p : Params F) (c : Channel) (b : Block F) :
    (conjEffect p c b).fftLen = b.fftLen := rfl

/-! ## cmulEffect -/

@[simp] theorem cmulEffect_configured (p : Params F) (k : Spectrum) (b : Block F) :
    (cmulEffect p k b).configured = b.configured := rfl
@[simp] theorem cmulEffect_outValid (p : Params F) (k : Spectrum) (b : Block F) :
    (cmulEffect p k b).outValid = b.outValid := rfl
@[simp] theorem cmulEffect_err (p : Params F) (k : Spectrum) (b : Block F) :
    (cmulEffect p k b).err = b.err := rfl
@[simp] theorem cmulEffect_cnt (p : Params F) (k : Spectrum) (b : Block F) :
    (cmulEffect p k b).cnt = b.cnt := rfl
@[simp] theorem cmulEffect_blocksize (p : Params F) (k : Spectrum) (b : Block F) :
    (cmulEffect p k b).blocksize = b.blocksize := rfl
@[simp] theorem cmulEffect_hopsize (p : Params F) (k : Spectrum) (b : Block F) :
    (cmulEffect p k b).hopsize = b.hopsize := rfl
@[simp] theorem cmulEffect_samplerate (p : Params F) (k : Spectrum) (b : Block F) :
    (cmulEffect p k b).samplerate = b.samplerate := rfl
@[simp] theorem cmulEffect_nch (p : Params F) (k : Spectrum) (b : Block F) :
    (cmulEffect p k b).nch = b.nch := rfl
@[simp] theorem cmulEffect_inlen (p : Params F) (k : Spectrum) (b : Block F) :
    (cmulEffect p k b).inlen = b.inlen := rfl
@[simp] theorem cmulEffect_ablock (p : Params F) (k : Spectrum) (b : Block F) :
    (cmulEffect p k b).ablock = b.ablock := rfl
@[simp] theorem cmulEffect_ahop (p : Params F) (k : Spectrum) (b : Block F) :
    (cmulEffect p k b).ahop = b.ahop := rfl
@[simp] theorem cmulEffect_afs (p : Params F) (k : Spectrum) (b : Block F) :
    (cmulEffect p k b).afs = b.afs := rfl
@[simp] theorem cmulEffect_nfft (p : Params F) (k : Spectrum) (b : Block F) :
    (cmulEffect p k b).nfft = b.nfft := rfl
@[simp] theorem cmulEffect_alpha (p : Params F) (k : Spectrum) (b : Block F) :
    (cmulEffect p k b).alpha = b.alpha := rfl
@[simp] theorem cmulEffect_inp (p : Params F) (k : Spectrum) (b : Block F) :
    (cmulEffect p k b).inp = b.inp := rfl
@[simp] theorem cmulEffect_win (p : Params F) (k : Spectrum) (b : Block F) :
    (cmulEffect p k b).win = b.win := rfl
@[simp] theorem cmulEffect_xbuf (p : Params F) (k : Spectrum) (b : Block F) :
    (cmulEffect p k b).xbuf = b.xbuf := rfl
@[simp] theorem cmulEffect_spec (p : Params F) (k : Spectrum) (b : Block F) :
    (cmulEffect p k b).spec = b.spec := rfl
@[simp] theorem cmulEffect_conj (p : Params F) (k : Spectrum) (b : Block F) :
    (cmulEffect p k b).conj = b.conj := rfl
@[simp] theorem cmulEffect_acc (p : Params F) (k : Spectrum) (b : Block F) :
    (cmulEffect p k b).acc = b.acc := rfl
@[simp] theorem cmulEffect_out (p : Params F) (k : Spectrum) (b : Block F) :
    (cmulEffect p k b).out = b.out := rfl
@[simp] theorem cmulEffect_blockLen (p : Params F) (k : Spectrum) (b : Block F) :
    (cmulEffect p k b).blockLen = b.blockLen := rfl
@[simp] theorem cmulEffect_fftLen (p : Params F) (k : Spectrum) (b : Block F) :
    (cmulEffect p k b).fftLen = b.fftLen := rfl

/-! ## smoothEffect -/

@[simp] theorem smoothEffect_configured (p : Params F) (k : Spectrum) (b : Block F) :
    (smoothEffect p k b).configured = b.configured := rfl
@[simp] theorem smoothEffect_outValid (p : Params F) (k : Spectrum) (b : Block F) :
    (smoothEffect p k b).outValid = b.outValid := rfl
@[simp] theorem smoothEffect_err (p : Params F) (k : Spectrum) (b : Block F) :
    (smoothEffect p k b).err = b.err := rfl
@[simp] theorem smoothEffect_cnt (p : Params F) (k : Spectrum) (b : Block F) :
    (smoothEffect p k b).cnt = b.cnt := rfl
@[simp] theorem smoothEffect_blocksize (p : Params F) (k : Spectrum) (b : Block F) :
    (smoothEffect p k b).blocksize = b.blocksize := rfl
@[simp] theorem smoothEffect_hopsize (p : Params F) (k : Spectrum) (b : Block F) :
    (smoothEffect p k b).hopsize = b.hopsize := rfl
@[simp] theorem smoothEffect_samplerate (p : Params F) (k : Spectrum) (b : Block F) :
    (smoothEffect p k b).samplerate = b.samplerate := rfl
@[simp] theorem smoothEffect_nch (p : Params F) (k : Spectrum) (b : Block F) :
    (smoothEffect p k b).nch = b.nch := rfl
@[simp] theorem smoothEffect_inlen (p : Params F) (k : Spectrum) (b : Block F) :
    (smoothEffect p k b).inlen = b.inlen := rfl
@[simp] theorem smoothEffect_ablock (p : Params F) (k : Spectrum) (b : Block F) :
    (smoothEffect p k b).ablock = b.ablock := rfl
@[simp] theorem smoothEffect_ahop (p : Params F) (k : Spectrum) (b : Block F) :
    (smoothEffect p k b).ahop = b.ahop := rfl
@[simp] theorem smoothEffect_afs (p : Params F) (k : Spectrum) (b : Block F) :
    (smoothEffect p k b).afs = b.afs := rfl
@[simp] theorem smoothEffect_nfft (p : Params F) (k : Spectrum) (b : Block F) :
    (smoothEffect p k b).nfft = b.nfft := rfl
@[simp] theorem smoothEffect_alpha (p : Params F) (k : Spectrum) (b : Block F) :
    (smoothEffect p k b).alpha = b.alpha := rfl
@[simp] theorem smoothEffect_inp (p : Params F) (k : Spectrum) (b : Block F) :
    (smoothEffect p k b).inp = b.inp := rfl
@[simp] theorem smoothEffect_win (p : Params F) (k : Spectrum) (b : Block F) :
    (smoothEffect p k b).win = b.win := rfl
@[simp] theorem smoothEffect_xbuf (p : Params F) (k : Spectrum) (b : Block F) :
    (smoothEffect p k b).xbuf = b.xbuf := rfl
@[simp] theorem smoothEffect_spec (p : Params F) (k : Spectrum) (b : Block F) :
    (smoothEffect p k b).spec = b.spec := rfl
@[simp] theorem smoothEffect_conj (p : Params F) (k : Spectrum) (b : Block F) :
    (smoothEffect p k b).conj = b.conj := rfl
@[simp] theorem smoothEffect_inst (p : Params F) (k : Spectrum) (b : Block F) :
    (smoothEffect p k b).inst = b.inst := rfl
@[simp] theorem smoothEffect_out (p : Params F) (k : Spectrum) (b : Block F) :
    (smoothEffect p k b).out = b.out := rfl
@[simp] theorem smoothEffect_blockLen (p : Params F) (k : Spectrum) (b : Block F) :
    (smoothEffect p k b).blockLen = b.blockLen := rfl
@[simp] theorem smoothEffect_fftLen (p : Params F) (k : Spectrum) (b : Block F) :
    (smoothEffect p k b).fftLen = b.fftLen := rfl

/-! ## extract -/

@[simp] theorem extract_configured (p : Params F) (b : Block F) :
    (extract p b).configured = b.configured := rfl
@[simp] theorem extract_outValid (p : Params F) (b : Block F) :
    (extract p b).outValid = b.outValid := rfl
@[simp] theorem extract_err (p : Params F) (b : Block F) :
    (extract p b).err = b.err := rfl
@[simp] theorem extract_cnt (p : Params F) (b : Block F) :
    (extract p b).cnt = b.cnt := rfl
@[simp] theorem extract_blocksize (p : Params F) (b : Block F) :
    (extract p b).blocksize = b.blocksize := rfl
@[simp] theorem extract_hopsize (p : Params F) (b : Block F) :
    (extract p b).hopsize = b.hopsize := rfl
@[simp] theorem extract_samplerate (p : Params F) (b : Block F) :
    (extract p b).samplerate = b.samplerate := rfl
@[simp] theorem extract_nch (p : Params F) (b : Block F) :
    (extract p b).nch = b.nch := rfl
@[simp] theorem extract_inlen (p : Params F) (b : Block F) :
    (extract p b).inlen = b.inlen := rfl
@[simp] theorem extract_ablock (p : Params F) (b : Block F) :
    (extract p b).ablock = b.ablock := rfl
@[simp] theorem extract_ahop (p : Params F) (b : Block F) :
    (extract p b).ahop = b.ahop := rfl
@[simp] theorem extract_afs (p : Params F) (b : Block F) :
    (extract p b).afs = b.afs := rfl
@[simp] theorem extract_nfft (p : Params F) (b : Block F) :
    (extract p b).nfft = b.nfft := rfl
@[simp] theorem extract_alpha (p : Params F) (b : Block F) :
    (extract p b).alpha = b.alpha := rfl
@[simp] theorem extract_inp (p : Params F) (b : Block F) :
    (extract p b).inp = b.inp := rfl
@[simp] theorem extract_win (p : Params F) (b : Block F) :
    (extract p b).win = b.win := rfl
@[simp] theorem extract_xbuf (p : Params F) (b : Block F) :
    (extract p b).xbuf = b.xbuf := rfl
@[simp] theorem extract_spec (p : Params F) (b : Block F) :
    (extract p b).spec = b.spec := rfl
@[simp] theorem extract_conj (p : Params F) (b : Block F) :
    (extract p b).conj = b.conj := rfl
@[simp] theorem extract_inst (p : Params F) (b : Block F) :
    (extract p b).inst = b.inst := rfl
@[simp] theorem extract_acc (p : Params F) (b : Block F) :
    (extract p b).acc = b.acc := rfl
@[simp] theorem extract_blockLen (p : Params F) (b : Block F) :
    (extract p b).blockLen = b.blockLen := rfl
@[simp] theorem extract_fftLen (p : Params F) (b : Block F) :
    (extract p b).fftLen = b.fftLen := rfl

/-! ## windowRow -/

@[simp] theorem windowRow_configured (num : Num F) (c : Channel) (row : List F) (b : Block F) :
    (b.windowRow num c row).configured = b.configured := rfl
@[simp] theorem windowRow_outValid (num : Num F) (c : Channel) (row : List F) (b : Block F) :
    (b.windowRow num c row).outValid = b.outValid := rfl
@[simp] theorem windowRow_err (num : Num F) (c : Channel) (row : List F) (b : Block F) :
    (b.windowRow num c row).err = b.err := rfl
@[simp] theorem windowRow_cnt (num : Num F) (c : Channel) (row : List F) (b : Block F) :
    (b.windowRow num c row).cnt = b.cnt := rfl
@[simp] theorem windowRow_blocksize (num : Num F) (c : Channel) (row : List F) (b : Block F) :
    (b.windowRow num c row).blocksize = b.blocksize := rfl
@[simp] theorem windowRow_hopsize (num : Num F) (c : Channel) (row : List F) (b : Block F) :
    (b.windowRow num c row).hopsize = b.hopsize := rfl
@[simp] theorem windowRow_samplerate (num : Num F) (c : Channel) (row : List F) (b : Block F) :
    (b.windowRow num c row).samplerate = b.samplerate := rfl
@[simp] theorem windowRow_nch (num : Num F) (c : Channel) (row : List F) (b : Block F) :
    (b.windowRow num c row).nch = b.nch := rfl
@[simp] theorem windowRow_inlen (num : Num F) (c : Channel) (row : List F) (b : Block F) :
    (b.windowRow num c row).inlen = b.inlen := rfl
@[simp] theorem windowRow_ablock (num : Num F) (c : Channel) (row : List F) (b : Block F) :
    (b.windowRow num c row).ablock = b.ablock := rfl
@[simp] theorem windowRow_ahop (num : Num F) (c : Channel) (row : List F) (b : Block F) :
    (b.windowRow num c row).ahop = b.ahop := rfl
@[simp] theorem windowRow_afs (num : Num F) (c : Channel) (row : List F) (b : Block F) :
    (b.windowRow num c row).afs = b.afs := rfl
@[simp] theorem windowRow_nfft (num : Num F) (c : Channel) (row : List F) (b : Block F) :
    (b.windowRow num c row).nfft = b.nfft := rfl
@[simp] theorem windowRow_alpha (num : Num F) (c : Channel) (row : List F) (b : Block F) :
    (b.windowRow num c row).alpha = b.alpha := rfl
@[simp] theorem windowRow_inp (num : Num F) (c : Channel) (row : List F) (b : Block F) :
    (b.windowRow num c row).inp = b.inp := rfl
@[simp] theorem windowRow_win (num : Num F) (c : Channel) (row : List F) (b : Block F) :
    (b.windowRow num c row).win = b.win := rfl
@[simp] theorem windowRow_spec (num : Num F) (c : Channel) (row : List F) (b : Block F) :
    (b.windowRow num c row).spec = b.spec := rfl
@[simp] theorem windowRow_conj (num : Num F) (c : Channel) (row : List F) (b : Block F) :
    (b.windowRow num c row).conj = b.conj := rfl
@[simp] theorem windowRow_inst (num : Num F) (c : Channel) (row : List F) (b : Block F) :
    (b.windowRow num c row).inst = b.inst := rfl
@[simp] theorem windowRow_acc (num : Num F) (c : Channel) (row : List F) (b : Block F) :
    (b.windowRow num c row).acc = b.acc := rfl
@[simp] theorem windowRow_out (num : Num F) (c : Channel) (row : List F) (b : Block F) :
    (b.windowRow num c row).out = b.out := rfl
@[simp] theorem windowRow_blockLen (num : Num F) (c : Channel) (row : List F) (b : Block F) :
    (b.windowRow num c row).blockLen = b.blockLen := rfl
@[simp] theorem windowRow_fftLen (num : Num F) (c : Channel) (row : List F) (b : Block F) :
    (b.windowRow num c row).fftLen = b.fftLen := rfl

/-! ## fftStep -/

@[simp] theorem fftStep_configured (p : Params F) (b : Block F) :
    (fftStep p b).configured = b.configured := by simp [fftStep]
@[simp] theorem fftStep_outValid (p : Params F) (b : Block F) :
    (fftStep p b).outValid = b.outValid := by simp [fftStep]
@[simp] theorem fftStep_err (p : Params F) (b : Block F) :
    (fftStep p b).err = b.err := by simp [fftStep]
@[simp] theorem fftStep_cnt (p : Params F) (b : Block F) :
    (fftStep p b).cnt = b.cnt := by simp [fftStep]
@[simp] theorem fftStep_blocksize (p : Params F) (b : Block F) :
    (fftStep p b).blocksize = b.blocksize := by simp [fftStep]
@[simp] theorem fftStep_hopsize (p : Params F) (b : Block F) :
    (fftStep p b).hopsize = b.hopsize := by simp [fftStep]
@[simp] theorem fftStep_samplerate (p : Params F) (b : Block F) :
    (fftStep p b).samplerate = b.samplerate := by simp [fftStep]
@[simp] theorem fftStep_nch (p : Params F) (b : Block F) :
    (fftStep p b).nch = b.nch := by simp [fftStep]
@[simp] theorem fftStep_inlen (p : Params F) (b : Block F) :
    (fftStep p b).inlen = b.inlen := by simp [fftStep]
@[simp] theorem fftStep_ablock (p : Params F) (b : Block F) :
    (fftStep p b).ablock = b.ablock := by simp [fftStep]
@[simp] theorem fftStep_ahop (p : Params F) (b : Block F) :
    (fftStep p b).ahop = b.ahop := by simp [fftStep]
@[simp] theorem fftStep_afs (p : Params F) (b : Block F) :
    (fftStep p b).afs = b.afs := by simp [fftStep]
@[simp] theorem fftStep_nfft (p : Params F) (b : Block F) :
    (fftStep p b).nfft = b.nfft := by simp [fftStep]
@[simp] theorem fftStep_alpha (p : Params F) (b : Block F) :
    (fftStep p b).alpha = b.alpha := by simp [fftStep]
@[simp] theorem fftStep_inp (p : Params F) (b : Block F) :
    (fftStep p b).inp = b.inp := by simp [fftStep]
@[simp] theorem fftStep_win (p : Params F) (b : Block F) :
    (fftStep p b).win = b.win := by simp [fftStep]
@[simp] theorem fftStep_xbuf (p : Params F) (b : Block F) :
    (fftStep p b).xbuf = b.xbuf := by simp [fftStep]
@[simp] theorem fftStep_conj (p : Params F) (b : Block F) :
    (fftStep p b).conj = b.conj := by simp [fftStep]
@[simp] theorem fftStep_inst (p : Params F) (b : Block F) :
    (fftStep p b).inst = b.inst := by simp [fftStep]
@[simp] theorem fftStep_acc (p : Params F) (b : Block F) :
    (fftStep p b).acc = b.acc := by simp [fftStep]
@[simp] theorem fftStep_out (p : Params F) (b : Block F) :
    (fftStep p b).out = b.out := by simp [fftStep]
@[simp] theorem fftStep_blockLen (p : Params F) (b : Block F) :
    (fftStep p b).blockLen = b.blockLen := by simp [fftStep]
@[simp] theorem fftStep_fftLen (p : Params F) (b : Block F) :
    (fftStep p b).fftLen = b.fftLen := by simp [fftStep]

/-! ## conjStep -/

@[simp] theorem conjStep_configured (p : Params F) (b : Block F) :
    (conjStep p b).configured = b.configured := by simp [conjStep]
@[simp] theorem conjStep_outValid (p : Params F) (b : Block F) :
    (conjStep p b).outValid = b.outValid := by simp [conjStep]
@[simp] theorem conjStep_err (p : Params F) (b : Block F) :
    (conjStep p b).err = b.err := by simp [conjStep]
@[simp] theorem conjStep_cnt (p : Params F) (b : Block F) :
    (conjStep p b).cnt = b.cnt := by simp [conjStep]
@[simp] theorem conjStep_blocksize (p : Params F) (b : Block F) :
    (conjStep p b).blocksize = b.blocksize := by simp [conjStep]
@[simp] theorem conjStep_hopsize (p : Params F) (b : Block F) :
    (conjStep p b).hopsize = b.hopsize := by simp [conjStep]
@[simp] theorem conjStep_samplerate (p : Params F) (b : Block F) :
    (conjStep p b).samplerate = b.samplerate := by simp [conjStep]
@[simp] theorem conjStep_nch (p : Params F) (b : Block F) :
    (conjStep p b).nch = b.nch := by simp [conjStep]
@[simp] theorem conjStep_inlen (p : Params F) (b : Block F) :
    (conjStep p b).inlen = b.inlen := by simp [conjStep]
@[simp] theorem conjStep_ablock (p : Params F) (b : Block F) :
    (conjStep p b).ablock = b.ablock := by simp [conjStep]
@[simp] theorem conjStep_ahop (p : Params F) (b : Block F) :
    (conjStep p b).ahop = b.ahop := by simp [conjStep]
@[simp] theorem conjStep_afs (p : Params F) (b : Block F) :
    (conjStep p b).afs = b.afs := by simp [conjStep]
@[simp] theorem conjStep_nfft (p : Params F) (b : Block F) :
    (conjStep p b).nfft = b.nfft := by simp [conjStep]
@[simp] theorem conjStep_alpha (p : Params F) (b : Block F) :
    (conjStep p b).alpha = b.alpha := by simp [conjStep]
@[simp] theorem conjStep_inp (p : Params F) (b : Block F) :
    (conjStep p b).inp = b.inp := by simp [conjStep]
@[simp] theorem conjStep_win (p : Params F) (b : Block F) :
    (conjStep p b).win = b.win := by simp [conjStep]
@[simp] theorem conjStep_xbuf (p : Params F) (b : Block F) :
    (conjStep p b).xbuf = b.xbuf := by simp [conjStep]
@[simp] theorem conjStep_spec (p : Params F) (b : Block F) :
    (conjStep p b).spec = b.spec := by simp [conjStep]
@[simp] theorem conjStep_inst (p : Params F) (b : Block F) :
    (conjStep p b).inst = b.inst := by simp [conjStep]
@[simp] theorem conjStep_acc (p : Params F) (b : Block F) :
    (conjStep p b).acc = b.acc := by simp [conjStep]
@[simp] theorem conjStep_out (p : Params F) (b : Block F) :
    (conjStep p b).out = b.out := by simp [conjStep]
@[simp] theorem conjStep_blockLen (p : Params F) (b : Block F) :
    (conjStep p b).blockLen = b.blockLen := by simp [conjStep]
@[simp] theorem conjStep_fftLen (p : Params F) (b : Block F) :
    (conjStep p b).fftLen = b.fftLen := by simp [conjStep]

/-! ## cmulStep -/

@[simp] theorem cmulStep_configured (p : Params F) (b : Block F) :
    (cmulStep p b).configured = b.configured := by simp [cmulStep]
@[simp] theorem cmulStep_outValid (p : Params F) (b : Block F) :
    (cmulStep p b).outValid = b.outValid := by simp [cmulStep]
@[simp] theorem cmulStep_err (p : Params F) (b : Block F) :
    (cmulStep p b).err = b.err := by simp [cmulStep]
@[simp] theorem cmulStep_cnt (p : Params F) (b : Block F) :
    (cmulStep p b).cnt = b.cnt := by simp [cmulStep]
@[simp] theorem cmulStep_blocksize (p : Params F) (b : Block F) :
    (cmulStep p b).blocksize = b.blocksize := by simp [cmulStep]
@[simp] theorem cmulStep_hopsize (p : Params F) (b : Block F) :
    (cmulStep p b).hopsize = b.hopsize := by simp [cmulStep]
@[simp] theorem cmulStep_samplerate (p : Params F) (b : Block F) :
    (cmulStep p b).samplerate = b.samplerate := by simp [cmulStep]
@[simp] theorem cmulStep_nch (p : Params F) (b : Block F) :
    (cmulStep p b).nch = b.nch := by simp [cmulStep]
@[simp] theorem cmulStep_inlen (p : Params F) (b : Block F) :
    (cmulStep p b).inlen = b.inlen := by simp [cmulStep]
@[simp] theorem cmulStep_ablock (p : Params F) (b : Block F) :
    (cmulStep p b).ablock = b.ablock := by simp [cmulStep]
@[simp] theorem cmulStep_ahop (p : Params F) (b : Block F) :
    (cmulStep p b).ahop = b.ahop := by simp [cmulStep]
@[simp] theorem cmulStep_afs (p : Params F) (b : Block F) :
    (cmulStep p b).afs = b.afs := by simp [cmulStep]
@[simp] theorem cmulStep_nfft (p : Params F) (b : Block F) :
    (cmulStep p b).nfft = b.nfft := by simp [cmulStep]
@[simp] theorem cmulStep_alpha (p : Params F) (b : Block F) :
    (cmulStep p b).alpha = b.alpha := by simp [cmulStep]
@[simp] theorem cmulStep_inp (p : Params F) (b : Block F) :
    (cmulStep p b).inp = b.inp := by simp [cmulStep]
@[simp] theorem cmulStep_win (p : Params F) (b : Block F) :
    (cmulStep p b).win = b.win := by simp [cmulStep]
@[simp] theorem cmulStep_xbuf (p : Params F) (b : Block F) :
    (cmulStep p b).xbuf = b.xbuf := by simp [cmulStep]
@[simp] theorem cmulStep_spec (p : Params F) (b : Block F) :
    (cmulStep p b).spec = b.spec := by simp [cmulStep]
@[simp] theorem cmulStep_conj (p : Params F) (b : Block F) :
    (cmulStep p b).conj = b.conj := by simp [cmulStep]
@[simp] theorem cmulStep_acc (p : Params F) (b : Block F) :
    (cmulStep p b).acc = b.acc := by simp [cmulStep]
@[simp] theorem cmulStep_out (p : Params F) (b : Block F) :
    (cmulStep p b).out = b.out := by simp [cmulStep]
@[simp] theorem cmulStep_blockLen (p : Params F) (b : Block F) :
    (cmulStep p b).blockLen = b.blockLen := by simp [cmulStep]
@[simp] theorem cmulStep_fftLen (p : Params F) (b : Block F) :
    (cmulStep p b).fftLen = b.fftLen := by simp [cmulStep]

/-! ## smoothStep -/

@[simp] theorem smoothStep_configured (p : Params F) (b : Block F) :
    (smoothStep p b).configured = b.configured := by simp [smoothStep]
@[simp] theorem smoothStep_outValid (p : Params F) (b : Block F) :
    (smoothStep p b).outValid = b.outValid := by simp [smoothStep]
@[simp] theorem smoothStep_err (p : Params F) (b : Block F) :
    (smoothStep p b).err = b.err := by simp [smoothStep]
@[simp] theorem smoothStep_cnt (p : Params F) (b : Block F) :
    (smoothStep p b).cnt = b.cnt := by simp [smoothStep]
@[simp] theorem smoothStep_blocksize (p : Params F) (b : Block F) :
    (smoothStep p b).blocksize = b.blocksize := by simp [smoothStep]
@[simp] theorem smoothStep_hopsize (p : Params F) (b : Block F) :
    (smoothStep p b).hopsize = b.hopsize := by simp [smoothStep]
@[simp] theorem smoothStep_samplerate (p : Params F) (b : Block F) :
    (smoothStep p b).samplerate = b.samplerate := by simp [smoothStep]
@[simp] theorem smoothStep_nch (p : Params F) (b : Block F) :
    (smoothStep p b).nch = b.nch := by simp [smoothStep]
@[simp] theorem smoothStep_inlen (p : Params F) (b : Block F) :
    (smoothStep p b).inlen = b.inlen := by simp [smoothStep]
@[simp] theorem smoothStep_ablock (p : Params F) (b : Block F) :
    (smoothStep p b).ablock = b.ablock := by simp [smoothStep]
@[simp] theorem smoothStep_ahop (p : Params F) (b : Block F) :
    (smoothStep p b).ahop = b.ahop := by simp [smoothStep]
@[simp] theorem smoothStep_afs (p : Params F) (b : Block F) :
    (smoothStep p b).afs = b.afs := by simp [smoothStep]
@[simp] theorem smoothStep_nfft (p : Params F) (b : Block F) :
    (smoothStep p b).nfft = b.nfft := by simp [smoothStep]
@[simp] theorem smoothStep_alpha (p : Params F) (b : Block F) :
    (smoothStep p b).alpha = b.alpha := by simp [smoothStep]
@[simp] theorem smoothStep_inp (p : Params F) (b : Block F) :
    (smoothStep p b).inp = b.inp := by simp [smoothStep]
@[simp] theorem smoothStep_win (p : Params F) (b : Block F) :
    (smoothStep p b).win = b.win := by simp [smoothStep]
@[simp] theorem smoothStep_xbuf (p : Params F) (b : Block F) :
    (smoothStep p b).xbuf = b.xbuf := by simp [smoothStep]
@[simp] theorem smoothStep_spec (p : Params F) (b : Block F) :
    (smoothStep p b).spec = b.spec := by simp [smoothStep]
@[simp] theorem smoothStep_conj (p : Params F) (b : Block F) :
    (smoothStep p b).conj = b.conj := by simp [smoothStep]
@[simp] theorem smoothStep_inst (p : Params F) (b : Block F) :
    (smoothStep p b).inst = b.inst := by simp [smoothStep]
@[simp] theorem smoothStep_out (p : Params F) (b : Block F) :
    (smoothStep p b).out = b.out := by simp [smoothStep]
@[simp] theorem smoothStep_blockLen (p : Params F) (b : Block F) :
    (smoothStep p b).blockLen = b.blockLen := by simp [smoothStep]
@[simp] theorem smoothStep_fftLen (p : Params F) (b : Block F) :
    (smoothStep p b).fftLen = b.fftLen := by simp [smoothStep]

/-! ## spectralSteps -/

@[simp] theorem spectralSteps_configured (p : Params F) (b : Block F) :
    (spectralSteps p b).configured = b.configured := by simp [spectralSteps]
@[simp] theorem spectralSteps_outValid (p : Params F) (b : Block F) :
    (spectralSteps p b).outValid = b.outValid := by simp [spectralSteps]
@[simp] theorem spectralSteps_err (p : Params F) (b : Block F) :
    (spectralSteps p b).err = b.err := by simp [spectralSteps]
@[simp] theorem spectralSteps_cnt (p : Params F) (b : Block F) :
    (spectralSteps p b).cnt = b.cnt := by simp [spectralSteps]
@[simp] theorem spectralSteps_blocksize (p : Params F) (b : Block F) :
    (spectralSteps p b).blocksize = b.blocksize := by simp [spectralSteps]
@[simp] theorem spectralSteps_hopsize (p : Params F) (b : Block F) :
    (spectralSteps p b).hopsize = b.hopsize := by simp [spectralSteps]
@[simp] theorem spectralSteps_samplerate (p : Params F) (b : Block F) :
    (spectralSteps p b).samplerate = b.samplerate := by simp [spectralSteps]
@[simp] theorem spectralSteps_nch (p : Params F) (b : Block F) :
    (spectralSteps p b).nch = b.nch := by simp [spectralSteps]
@[simp] theorem spectralSteps_inlen (p : Params F) (b : Block F) :
    (spectralSteps p b).inlen = b.inlen := by simp [spectralSteps]
@[simp] theorem spectralSteps_ablock (p : Params F) (b : Block F) :
    (spectralSteps p b).ablock = b.ablock := by simp [spectralSteps]
@[simp] theorem spectralSteps_ahop (p : Params F) (b : Block F) :
    (spectralSteps p b).ahop = b.ahop := by simp [spectralSteps]
@[simp] theorem spectralSteps_afs (p : Params F) (b : Block F) :
    (spectralSteps p b).afs = b.afs := by simp [spectralSteps]
@[simp] theorem spectralSteps_nfft (p : Params F) (b : Block F) :
    (spectralSteps p b).nfft = b.nfft := by simp [spectralSteps]
@[simp] theorem spectralSteps_alpha (p : Params F) (b : Block F) :
    (spectralSteps p b).alpha = b.alpha := by simp [spectralSteps]
@[simp] theorem spectralSteps_inp (p : Params F) (b : Block F) :
    (spectralSteps p b).inp = b.inp := by simp [spectralSteps]
@[simp] theorem spectralSteps_win (p : Params F) (b : Block F) :
    (spectralSteps p b).win = b.win := by simp [spectralSteps]
@[simp] theorem spectralSteps_xbuf (p : Params F) (b : Block F) :
    (spectralSteps p b).xbuf = b.xbuf := by simp [spectralSteps]
@[simp] theorem spectralSteps_out (p : Params F) (b : Block F) :
    (spectralSteps p b).out = b.out := by simp [spectralSteps]
@[simp] theorem spectralSteps_blockLen (p : Params F) (b : Block F) :
    (spectralSteps p b).blockLen = b.blockLen := by simp [spectralSteps]
@[simp] theorem spectralSteps_fftLen (p : Params F) (b : Block F) :
    (spectralSteps p b).fftLen = b.fftLen := by simp [spectralSteps]

/-! ## tickEffect -/

@[simp] theorem tickEffect_configured (p : Params F) (b : Block F) :
    (tickEffect p b).configured = b.configured := by
  unfold tickEffect; split <;> rfl
@[simp] theorem tickEffect_err (p : Params F) (b : Block F) :
    (tickEffect p b).err = b.err := by
  unfold tickEffect; split <;> rfl
@[simp] theorem tickEffect_blocksize (p : Params F) (b : Block F) :
    (tickEffect p b).blocksize = b.blocksize := by
  unfold tickEffect; split <;> rfl
@[simp] theorem tickEffect_hopsize (p : Params F) (b : Block F) :
    (tickEffect p b).hopsize = b.hopsize := by
  unfold tickEffect; split <;> rfl
@[simp] theorem tickEffect_samplerate (p : Params F) (b : Block F) :
    (tickEffect p b).samplerate = b.samplerate := by
  unfold tickEffect; split <;> rfl
@[simp] theorem tickEffect_nch (p : Params F) (b : Block F) :
    (tickEffect p b).nch = b.nch := by
  unfold tickEffect; split <;> rfl
@[simp] theorem tickEffect_inlen (p : Params F) (b : Block F) :
    (tickEffect p b).inlen = b.inlen := by
  unfold tickEffect; split <;> rfl
@[simp] theorem tickEffect_ablock (p : Params F) (b : Block F) :
    (tickEffect p b).ablock = b.ablock := by
  unfold tickEffect; split <;> rfl
@[simp] theorem tickEffect_ahop (p : Params F) (b : Block F) :
    (tickEffect p b).ahop = b.ahop := by
  unfold tickEffect; split <;> rfl
@[simp] theorem tickEffect_afs (p : Params F) (b : Block F) :
    (tickEffect p b).afs = b.afs := by
  unfold tickEffect; split <;> rfl
@[simp] theorem tickEffect_nfft (p : Params F) (b : Block F) :
    (tickEffect p b).nfft = b.nfft := by
  unfold tickEffect; split <;> rfl
@[simp] theorem tickEffect_alpha (p : Params F) (b : Block F) :
    (tickEffect p b).alpha = b.alpha := by
  unfold tickEffect; split <;> rfl
@[simp] theorem tickEffect_inp (p : Params F) (b : Block F) :
    (tickEffect p b).inp = b.inp := by
  unfold tickEffect; split <;> rfl
@[simp] theorem tickEffect_win (p : Params F) (b : Block F) :
    (tickEffect p b).win = b.win := by
  unfold tickEffect; split <;> rfl
@[simp] theorem tickEffect_xbuf (p : Params F) (b : Block F) :
    (tickEffect p b).xbuf = b.xbuf := by
  unfold tickEffect; split <;> rfl
@[simp] theorem tickEffect_spec (p : Params F) (b : Block F) :
    (tickEffect p b).spec = b.spec := by
  unfold tickEffect; split <;> rfl
@[simp] theorem tickEffect_conj (p : Params F) (b : Block F) :
    (tickEffect p b).conj = b.conj := by
  unfold tickEffect; split <;> rfl
@[simp] theorem tickEffect_inst (p : Params F) (b : Block F) :
    (tickEffect p b).inst = b.inst := by
  unfold tickEffect; split <;> rfl
@[simp] theorem tickEffect_acc (p : Params F) (b : Block F) :
    (tickEffect p b).acc = b.acc := by
  unfold tickEffect; split <;> rfl
@[simp] theorem tickEffect_blockLen (p : Params F) (b : Block F) :
    (tickEffect p b).blockLen = b.blockLen := by
  unfold tickEffect; split <;> rfl
@[simp] theorem tickEffect_fftLen (p : Params F) (b : Block F) :
    (tickEffect p b).fftLen = b.fftLen := by
  unfold tickEffect; split <;> rfl

/-- Everything the effect of TICK can do (45_decimate_emit.md R160). -/
theorem tickEffect_cases (p : Params F) (b : Block F) :
    (b.cnt.toNat + 1 < 10 ∧
      tickEffect p b = b.setCount (BitVec.ofNat 4 (b.cnt.toNat + 1)) false) ∨
    (10 ≤ b.cnt.toNat + 1 ∧ tickEffect p b = (extract p b).setCount 0#4 true) := by
  unfold tickEffect Block.nextCount Config.decim
  split
  · exact .inl ⟨by assumption, rfl⟩
  · exact .inr ⟨by omega, rfl⟩

/-- Everything the effect of WIN c can do (41_window.md R120, R122 (d)). -/
theorem winEffect_cases (p : Params F) (c : Channel) (b : Block F) :
    (∃ row, readRow (b.inp.get c) b.blockLen 0 = .ok row ∧
      winEffect p c b = .ok (b.windowRow p.num c row)) ∨
    (∃ i, readRow (b.inp.get c) b.blockLen 0 = .error i ∧
      winEffect p c b = .error (.unwrittenInput c i)) := by
  unfold winEffect
  cases h : readRow (b.inp.get c) b.blockLen 0 with
  | ok row => exact .inl ⟨row, rfl, rfl⟩
  | error i => exact .inr ⟨i, rfl, rfl⟩

/-- A row that the host has written is windowed without a fault. -/
theorem winEffect_of_written (p : Params F) {c : Channel} {b : Block F} (h : b.rowWritten c) :
    ∃ row, readRow (b.inp.get c) b.blockLen 0 = .ok row ∧
      winEffect p c b = .ok (b.windowRow p.num c row) := by
  obtain ⟨row, hrow⟩ := readRow_of_written (m := b.inp.get c) (count := b.blockLen) (i := 0)
    fun n _ hn => h n (by omega)
  exact ⟨row, hrow, by simp [winEffect, hrow]⟩

/-- Everything the effect of PROCESS can do: both rows are windowed and the other eleven steps
follow, or a sample of a row is unwritten (46_process.md R180). -/
theorem processEffect_cases (p : Params F) (b : Block F) :
    (∃ row0 row1, readRow (b.inp.get .ch0) b.blockLen 0 = .ok row0 ∧
      readRow (b.inp.get .ch1) b.blockLen 0 = .ok row1 ∧
      processEffect p b = .ok (tickEffect p (spectralSteps p
        ((b.windowRow p.num .ch0 row0).windowRow p.num .ch1 row1)))) ∨
    (∃ c i, readRow (b.inp.get c) b.blockLen 0 = .error i ∧
      processEffect p b = .error (.unwrittenInput c i)) := by
  unfold processEffect
  rcases winEffect_cases p .ch0 b with ⟨row0, hr0, h0⟩ | ⟨i, hr0, h0⟩
  · rcases winEffect_cases p .ch1 (b.windowRow p.num .ch0 row0) with ⟨row1, hr1, h1⟩ | ⟨i, hr1, h1⟩
    · exact .inl ⟨row0, row1, hr0, hr1, by simp [h0, h1]⟩
    · exact .inr ⟨.ch1, i, hr1, by simp [h0, h1]⟩
  · exact .inr ⟨.ch0, i, hr0, by simp [h0]⟩

/-- Everything CONFIG can do (40_config.md R108, R109). -/
theorem runConfig_cases (p : Params F) (b : Block F) :
    ((b.destroy p.num.zero).configInvalid p.num = true ∧
      runConfig p b = (b.destroy p.num.zero).raise .configurationError) ∨
    ((b.destroy p.num.zero).configInvalid p.num = false ∧
      (b.destroy p.num.zero).overCapacity p.log2NfftMax = true ∧
      runConfig p b = (b.destroy p.num.zero).raise .capacityError) ∨
    ((b.destroy p.num.zero).configInvalid p.num = false ∧
      (b.destroy p.num.zero).overCapacity p.log2NfftMax = false ∧
      runConfig p b = ((b.destroy p.num.zero).construct p).complete) := by
  unfold runConfig
  cases h1 : (b.destroy p.num.zero).configInvalid p.num <;>
    cases h2 : (b.destroy p.num.zero).overCapacity p.log2NfftMax <;> simp [h1, h2]

end Sys2Proof.Machine
end

