-- ==== Sys2Proof/Tests/Slice0.lean ====
section
/-!
SUPPORT. The model's own tests: words written out from the spec's encodings, the checks of
WellFormed, the worked vectors of 95_test_vectors.md one step at a time, and for every statement with
hypotheses a state that meets them together.
-/

open Sys2Proof Sys2Proof.Machine Sys2Proof.Claims

namespace Sys2Proof.Tests

/-! ## WellFormed: an ill-formed term for each check -/

theorem test_win_channel_2_refused : (Instr.win 2#8).wellFormed = false := by decide
theorem test_fft_channel_3_refused : (Instr.fft 3#8).wellFormed = false := by decide
theorem test_conj_channel_255_refused : (Instr.conj 255#8).wellFormed = false := by decide
theorem test_cmul_spectrum_3_refused : (Instr.cmul 3#8).wellFormed = false := by decide
theorem test_smooth_spectrum_4_refused : (Instr.smooth 4#8).wellFormed = false := by decide

/-! ## Decoding: one word per constructor, written out from 30_encoding.md R83 -/

theorem test_decode_nop : decode 0x00000000#32 = .ok .nop := by decide
theorem test_decode_config : decode 0x00000001#32 = .ok .config := by decide
theorem test_decode_process : decode 0x00000002#32 = .ok .process := by decide
theorem test_decode_win1 : decode 0x00000110#32 = .ok (.win 1#8) := by decide
theorem test_decode_fft1 : decode 0x00000111#32 = .ok (.fft 1#8) := by decide
theorem test_decode_conj0 : decode 0x00000012#32 = .ok (.conj 0#8) := by decide
theorem test_decode_cmul2 : decode 0x00000213#32 = .ok (.cmul 2#8) := by decide
theorem test_decode_smooth1 : decode 0x00000114#32 = .ok (.smooth 1#8) := by decide
theorem test_decode_tick : decode 0x00000015#32 = .ok .tick := by decide

/-- 95_test_vectors.md E11 to E19. -/
theorem test_decode_illegal_words :
    ([0x00000003#32, 0x00000016#32, 0x000000FF#32, 0x00000100#32, 0x00000101#32, 0x00000102#32,
      0x00000115#32, 0x00000210#32, 0x00000313#32, 0x00010002#32, 0xFFFFFFFF#32,
      0x80000000#32].all fun w => (decode w).toOption.isNone) = true := by decide

theorem test_table_word : decodeTableWord 32 0x00000214 = some (.smooth 2#8) := by decide

/-! ## Binary64, bit for bit -/

def eight : B64 := 0x4020000000000000#64
def three : B64 := 0x4008000000000000#64
def four : B64 := 0x4010000000000000#64
def negOne : B64 := 0xBFF0000000000000#64
def negZero : B64 := 0x8000000000000000#64

/-- 0.1 + 0.2 = 0.30000000000000004. -/
theorem test_add_rounds :
    f64Add 0x3FB999999999999A#64 0x3FC999999999999A#64 = 0x3FD3333333333334#64 := by
  decide +kernel

/-- 1 / 3 rounds down. -/
theorem test_div_rounds : f64Div f64One 0x4008000000000000#64 = 0x3FD5555555555555#64 := by
  decide +kernel

/-- sqrt 2. -/
theorem test_sqrt_rounds : f64Sqrt f64Two = 0x3FF6A09E667F3BCD#64 := by decide +kernel

/-- The least subnormal times one half is a tie that goes to even, to +0. -/
theorem test_mul_underflows : f64Mul 1#64 f64Half = 0#64 := by decide +kernel

/-- The largest finite datum doubled is an infinity. -/
theorem test_mul_overflows :
    f64Mul 0x7FEFFFFFFFFFFFFF#64 f64Two = 0x7FF0000000000000#64 := by decide +kernel

/-- 16000 (95_test_vectors.md K1's rate). -/
theorem test_ofInt_16000 : f64OfInt 16000 = 0x40CF400000000000#64 := by decide +kernel

/-- exp(-0.1) = 0.904837418035959573... and exp(-1) = 0.367879441171442322..., rounded to nearest. -/
theorem test_exp_nearest :
    f64ExpNearest 0xBFB999999999999A#64 = 0x3FECF46D99D52B3A#64 ∧
    f64ExpNearest negOne = 0x3FD78B56362CEF38#64 := by decide +kernel

/-- The cosine of the datum nearest to pi / 2 is 6.123233995736766e-17 (95_test_vectors.md F5 "about
6.1e-17"), its sine is 1. -/
theorem test_trig_nearest :
    f64CosNearest 0x3FF921FB54442D18#64 = 0x3C91A62633145C07#64 ∧
    f64SinNearest 0x3FF921FB54442D18#64 = f64One := by decide +kernel

/-! ## One step at a time -/

/-- The block of `setup 2, 1, 8` with the input of 95_test_vectors.md P2 delivered and alpha 0.5 in the
place of e^-1. -/
def tiny : Block B64 :=
  { Block.reset 0#64 with
    configured := true
    nch := 2#32, inlen := ⟨2#32, 2#32⟩
    blocksize := 2#32, hopsize := 1#32, samplerate := eight
    ablock := 2#32, ahop := 1#32, afs := eight, nfft := 2#32, alpha := f64Half
    inp := ⟨[(0, three), (1, f64One)], [(0, three), (1, f64Two)]⟩
    win := [0#64, f64One]
    xbuf := ⟨zeros 2, zeros 2⟩
    spec := ⟨zeros 4, zeros 4⟩
    conj := ⟨zeros 4, zeros 4⟩
    inst := ⟨zeros 4, zeros 4, zeros 4⟩
    acc := ⟨zeros 4, zeros 4, zeros 4⟩
    out := ⟨zeros 4, zeros 2, zeros 2⟩ }

/-- A machine with this block and nothing pending. -/
def on (b : Block B64) : State := { State.reset with block := b }

/-- A machine with this block whose host has one event pending. -/
def told (b : Block B64) (e : HostEvent B64) : State := { on b with pending := [e] }

/-- The block after an outcome, the given one when the machine stops. -/
def blockOf (b : Block B64) : Host.Outcome State Fault Refusal → Block B64
  | .next t => t.block
  | .fault _ => b
  | .refused _ => b

/-- The block after one command. -/
def after (i : Instr) (b : Block B64) : Block B64 := blockOf b (exec i (on b))

/-- 40_config.md R101, the example. -/
theorem test_nop :
    (after .nop { tiny with cnt := 3#4, err := .invalidInput }).statusWord = 0x00000301#32 := by
  decide

/-- 95_test_vectors.md K10, K2 (the window at b = 2) and the accumulator's length. -/
theorem test_config_builds :
    (after .config tiny).win = [0#64, f64One] ∧ (after .config tiny).statusWord = 0x00000001#32 ∧
      (after .config tiny).nfft = 2#32 ∧ (after .config tiny).acc.cross = zeros 4 := by
  decide +kernel

/-- 95_test_vectors.md K20, K28, K29: STATUS after `setup 200, 400`, `setup 1, 1`, `setup 1, 2`. -/
theorem test_config_fails :
    (after .config { tiny with blocksize := 200#32, hopsize := 400#32 }).statusWord = 0x00000010#32 ∧
    (after .config { tiny with blocksize := 1#32 }).statusWord = 0x00000050#32 ∧
    (after .config { tiny with blocksize := 1#32, hopsize := 2#32 }).statusWord = 0x00000010#32 := by
  decide +kernel

/-- 95_test_vectors.md P2: INST2 = [4, 0, 4, 0] after the first call, so ACC2 is half of it here. -/
theorem test_process_accumulates :
    (after .process tiny).inst.auto1 = [four, 0#64, four, 0#64] ∧
    (after .process tiny).acc.auto1 = [f64Two, 0#64, f64Two, 0#64] ∧
    (after .process tiny).statusWord = 0x00000101#32 := by decide +kernel

/-- 95_test_vectors.md V-ERR: a short row gives code 2, and the counter stays. -/
theorem test_process_refuses_short_row :
    (after .process { tiny with cnt := 3#4, inlen := ⟨2#32, 1#32⟩ }).statusWord
      = 0x00000321#32 := by decide

/-- 95_test_vectors.md W10: the sign of the zero is the sample's. -/
theorem test_win_sign_of_zero :
    (after (.win 0#8) { tiny with
      inp := ⟨[(0, 0xC008000000000000#64), (1, f64One)], []⟩ }).xbuf.ch0 = [negZero, f64One] := by
  decide +kernel

/-- 95_test_vectors.md W7: three channels stated. -/
theorem test_win_wrong_channels :
    (after (.win 0#8) { tiny with nch := 3#32 }).statusWord = 0x00000021#32 := by decide

/-- 95_test_vectors.md F1: [3, 1] gives [4, 0, 2, 0]. -/
theorem test_fft_two_points :
    (after (.fft 0#8) { tiny with xbuf := ⟨[three, f64One], zeros 2⟩ }).spec.ch0
      = [four, 0#64, f64Two, 0#64] := by decide +kernel

/-- 95_test_vectors.md X1, its first bins. -/
theorem test_conj_negates :
    (after (.conj 1#8) { tiny with spec := ⟨zeros 4, [f64One, 0#64, 0#64, negOne]⟩ }).conj.ch1
      = [f64One, negZero, 0#64, f64One] := by decide

/-- 95_test_vectors.md X2 in bin 1: (1, 2) times (3, 1) is (1, 7). -/
theorem test_cmul_bin :
    (after (.cmul 0#8) { tiny with
      spec := ⟨[0#64, 0#64, f64One, f64Two], zeros 4⟩
      conj := ⟨zeros 4, [0#64, 0#64, three, f64One]⟩ }).inst.cross.drop 2
      = [f64One, 0x401C000000000000#64] := by decide +kernel

/-- 95_test_vectors.md Y1: 0.5 * 4 + 0.5 * 10 = 7. -/
theorem test_smooth_y1 :
    (after (.smooth 1#8) { tiny with
      acc := ⟨zeros 4, [four, 0#64, 0#64, 0#64], zeros 4⟩
      inst := ⟨zeros 4, [0x4024000000000000#64, 0#64, 0#64, 0#64], zeros 4⟩ }).acc.auto0
      = [0x401C000000000000#64, 0#64, 0#64, 0#64] := by decide +kernel

/-- 95_test_vectors.md T2 (STATUS 0x801 to 0x901). -/
theorem test_tick_counts : (after .tick { tiny with cnt := 8#4 }).statusWord = 0x00000901#32 := by
  decide

/-- ACCk[i] = i + 1 for i in [0, 16). -/
def ramp : List B64 := (List.range 16).map fun i => f64OfInt (i + 1)

/-- 95_test_vectors.md T7: N = 8, AFS = 2; the rows OUT0 and OUT1. -/
theorem test_tick_extracts :
    (after .tick { tiny with
      cnt := 9#4, nfft := 8#32, afs := f64Two, acc := ⟨ramp, ramp, ramp⟩
      out := ⟨zeros 10, zeros 5, zeros 5⟩ }).out.cross
      = [f64Half, 0#64, 0x3FE8000000000000#64, f64One, 0x3FF4000000000000#64,
         0x3FF8000000000000#64, 0x3FFC000000000000#64, f64Two, 0x4012000000000000#64, 0#64] ∧
    (after .tick { tiny with
      cnt := 9#4, nfft := 8#32, afs := f64Two, acc := ⟨ramp, ramp, ramp⟩
      out := ⟨zeros 10, zeros 5, zeros 5⟩ }).out.auto0
      = [f64Half, 0x3FE8000000000000#64, 0x3FF4000000000000#64, 0#64, four] := by decide +kernel

/-- 95_test_vectors.md M8, M14, M5: a MemWrite at IN_CAP, a word for an F register, an i32. -/
theorem test_transactions :
    (blockOf tiny (step (told tiny (.memWrite 0 65536 (.num f64One)))) = tiny) ∧
    (blockOf tiny (step (told tiny (.regWrite 4 (.word 0x3E80#32)))) = tiny) ∧
    (blockOf tiny (step (told tiny (.regWrite 2 (.word (-7#32)))))).blocksize = -7#32 := by decide

/-- 30_encoding.md R88: `block` is two feeds, NCH and the command. -/
theorem test_pseudo_block :
    pseudoBlock [three] [f64One] =
      [.memWrite 0 0 (.num three), .regWrite 6 (.word 1#32), .memWrite 1 0 (.num f64One),
       .regWrite 7 (.word 1#32), .regWrite 5 (.word 2#32), .regWrite 0 (.word 2#32)] := by decide

/-! ## Witnesses: for each statement with hypotheses, a state that meets them together -/

theorem witness_ready : ready tiny := by unfold ready; decide

theorem witness_written (c : Channel) : tiny.rowWritten c := by
  intro n hn
  have hn : n < 2 := hn
  cases c <;> interval_cases n <;> rfl

theorem witness_callReady : tiny.CallReady :=
  ⟨rfl, rfl, by decide, by decide, witness_written .ch0, witness_written .ch1⟩

theorem witness_callReadyAt (n : BitVec 4) : ({ tiny with cnt := n } : Block B64).CallReady :=
  ⟨rfl, rfl, witness_callReady.row0_long, witness_callReady.row1_long, witness_written .ch0,
    witness_written .ch1⟩

theorem witness_EncodedCommandsDecodeBack : (Instr.cmul 2#8).wellFormed = true := by decide

theorem witness_DecodedWordsEncodeBack : decode 0x00000213#32 = .ok (.cmul 2#8) := by decide

/-- Each of the three reasons, at a boundary of its range. -/
theorem witness_IllegalWordsChangeOnlyTheCode :
    wordIllegal 0x00010000#32 ∧ wordIllegal 0x00000016#32 ∧ wordIllegal 0x00000100#32 ∧
    wordIllegal 0x00000210#32 ∧ wordIllegal 0x00000313#32 ∧
    (told tiny (.regWrite 0 (.word 0x00000313#32))).pending
      = .regWrite 0 (.word 0x00000313#32) :: [] := by
  refine ⟨?_, ?_, ?_, ?_, ?_, rfl⟩ <;> unfold wordIllegal <;> decide

theorem witness_OperandOutOfRangeEndsIllegal : (Instr.fft 2#8).wellFormed = false := by decide

theorem witness_StepRunsTheDecodedCommand :
    (told tiny (.regWrite 0 (.word 0x00000015#32))).pending
      = .regWrite 0 (.word 0x00000015#32) :: [] ∧ decode 0x00000015#32 = .ok .tick := by decide

theorem witness_PlacedWordRunsNext : Instr.tick.wellFormed = true := by decide

theorem witness_IdleBlockKeepsItsState : (on tiny).pending = [] := rfl

theorem witness_StatusReadsItsFieldsAndZeros :
    (told tiny (.regRead 1)).pending = .regRead 1 :: [] := rfl

/-- The first and the last register, and the first number that is none. -/
theorem witness_RegReadReturnsTheRegister :
    (told tiny (.regRead 0)).pending = .regRead 0 :: [] ∧
    (told tiny (.regRead 12)).pending = .regRead 12 :: [] ∧
    (told tiny (.regRead 13)).pending = .regRead 13 :: [] := ⟨rfl, rfl, rfl⟩

theorem witness_RegWriteStoresTheValue :
    (told tiny (.regWrite 2 (.word 7#32))).pending = .regWrite 2 (.word 7#32) :: [] ∧
    (told tiny (.regWrite 3 (.word 7#32))).pending = .regWrite 3 (.word 7#32) :: [] ∧
    (told tiny (.regWrite 4 (.num three))).pending = .regWrite 4 (.num three) :: [] ∧
    (told tiny (.regWrite 5 (.word 7#32))).pending = .regWrite 5 (.word 7#32) :: [] ∧
    (told tiny (.regWrite 6 (.word 7#32))).pending = .regWrite 6 (.word 7#32) :: [] ∧
    (told tiny (.regWrite 7 (.word 7#32))).pending = .regWrite 7 (.word 7#32) :: [] :=
  ⟨rfl, rfl, rfl, rfl, rfl, rfl⟩

/-- A dense bank; of IN1 the last written element, the last element of all, and the first index past
the bank. -/
theorem witness_MemReadReturnsTheElement :
    ((told tiny (.memRead 17 1)).pending = .memRead 17 1 :: [] ∧
      bankElems (told tiny (.memRead 17 1)).block 17 = some (zeros 2)) ∧
    ((told tiny (.memRead (channelNumber .ch1) 1)).pending = .memRead (channelNumber .ch1) 1 :: [] ∧
      1 < 2 ^ Config.log2NfftMax ∧ memRead (tiny.inp.get .ch1) 1 = some f64Two) ∧
    ((told tiny (.memRead (channelNumber .ch1) 65535)).pending
        = .memRead (channelNumber .ch1) 65535 :: [] ∧
      65535 < 2 ^ Config.log2NfftMax ∧ memRead (tiny.inp.get .ch1) 65535 = none) ∧
    (told tiny (.memRead (channelNumber .ch1) 65536)).pending
      = .memRead (channelNumber .ch1) 65536 :: [] ∧ 2 ^ Config.log2NfftMax ≤ 65536 :=
  ⟨⟨rfl, rfl⟩, ⟨rfl, by decide, rfl⟩, ⟨rfl, by decide, rfl⟩, rfl, by decide⟩

theorem witness_MemWriteStoresTheSample :
    65535 < 65536 ∧ (told tiny (.memWrite (channelNumber .ch1) 65535 (.num three))).pending
      = .memWrite (channelNumber .ch1) 65535 (.num three) :: [] := ⟨by decide, rfl⟩

/-- A MemRead just below and at the length of OUT0. -/
theorem witness_BusErrorExactlyInTheListedCases :
    (told tiny (.memRead 15 4)).block.sized = true ∧ busErrorCase tiny (.memRead 15 4) ∧
    ¬busErrorCase tiny (.memRead 15 3) ∧ (HostEvent.memRead 15 3 : HostEvent B64) ≠ .reset ∧
    (∃ t, step (told tiny (.memRead 15 3)) = .next t) ∧
    ∃ t, step (told tiny (.memRead 15 4)) = .next t := by
  refine ⟨by decide, ?_, ?_, by decide, ⟨_, rfl⟩, ⟨_, rfl⟩⟩
  · unfold busErrorCase; decide
  · unfold busErrorCase; decide

theorem witness_HostReadsChangeNothing :
    isRead (.memRead 0 9) ∧ (told tiny (.memRead 0 9)).pending = .memRead 0 9 :: [] :=
  ⟨trivial, rfl⟩

theorem witness_ResetPulseLeavesTheResetState :
    (told tiny .reset).pending = .reset :: [] := rfl

theorem witness_UnconfiguredBlockRunsOnlyNopAndConfig :
    Instr.tick.wellFormed = true ∧ Instr.tick ≠ .nop ∧ Instr.tick ≠ .config ∧
    State.reset.block.configured = false := by decide

/-- Each condition of PROCESS and of WIN 1, at the boundary of its range. -/
theorem witness_InvalidInputChangesOnlyTheCode :
    (on tiny).block.configured = true ∧
    (on { tiny with nch := 3#32 }).block.nch ≠ 2#32 ∧
    (((on { tiny with inlen := ⟨1#32, 2#32⟩ }).block.inlen.ch0.toNat : Int)
      < (on tiny).block.ablock.toInt) ∧
    (((on { tiny with inlen := ⟨2#32, 1#32⟩ }).block.inlen.ch1.toNat : Int)
      < (on tiny).block.ablock.toInt) ∧
    (after .process { tiny with nch := 3#32 }).err = .invalidInput ∧
    (after (.win (chanArg .ch1)) { tiny with inlen := ⟨2#32, 1#32⟩ }).err = .invalidInput := by
  decide

/-- The five checks, each at the boundary of its range. -/
theorem witness_ConfigurationErrorLeavesNoEstimator :
    configInvalid { tiny with blocksize := 0#32 } ∧ configInvalid { tiny with hopsize := 0#32 } ∧
    configInvalid { tiny with hopsize := 3#32 } ∧
    configInvalid { tiny with samplerate := 0x7FF0000000000000#64 } ∧
    configInvalid { tiny with samplerate := 0#64 } ∧
    (after .config { tiny with hopsize := 3#32 }).err = .configurationError := by
  unfold configInvalid; decide

/-- A block size of 1 and one of 65537. -/
theorem witness_CapacityErrorLeavesNoEstimator :
    ¬configInvalid { tiny with blocksize := 1#32 } ∧
    ({ tiny with blocksize := 1#32 } : Block B64).blocksize.toInt < 2 ∧
    ¬configInvalid { tiny with blocksize := 65537#32 } ∧
    65536 < ({ tiny with blocksize := 65537#32 } : Block B64).blocksize.toInt ∧
    (after .config { tiny with blocksize := 65537#32 }).err = .capacityError := by
  unfold configInvalid; decide

theorem witness_FailedCommandHasNoPartialEffect :
    (∃ t, exec .process (on { tiny with nch := 1#32 }) = .next t ∧ t.block.err ≠ .ok) ∧
    (∃ t, exec .config (on { tiny with hopsize := 0#32 }) = .next t ∧ t.block.err ≠ .ok) ∧
    (∃ t, step (told tiny (.regWrite 0 (.word 0x00000015#32))) = .next t) ∧
    decode 0x00010000#32 = .error .zeroFieldNotZero :=
  ⟨⟨_, rfl, by decide⟩, ⟨_, rfl, by decide⟩, ⟨_, rfl⟩, by decide⟩

/-- Channel 1 lacks its second sample. -/
def gap : Block B64 := { tiny with inp := ⟨[(0, three), (1, f64One)], [(0, three)]⟩ }

theorem witness_UnwrittenSampleStopsTheCall :
    (on gap).block.configured = true ∧ (on gap).block.nch = 2#32 ∧ 1 < gap.blockLen ∧
    memRead (gap.inp.get .ch1) 1 = none ∧
    (∀ j, j < 1 → (memRead (gap.inp.get .ch1) j).isSome = true) ∧
    gap.ablock.toInt ≤ ((gap.inlen.get .ch1).toNat : Int) ∧
    gap.ablock.toInt ≤ (gap.inlen.ch0.toNat : Int) ∧ gap.rowWritten .ch0 := by
  refine ⟨rfl, rfl, by decide, rfl, ?_, by decide, by decide, witness_written .ch0⟩
  intro j hj
  interval_cases j
  rfl

theorem witness_MachineStopsOnlyAtAnUnwrittenSample :
    step (told gap (.regWrite 0 (.word 0x00000002#32))) = .fault (.unwrittenInput .ch1 1) := rfl

theorem witness_ConfigConstructsTheEstimator :
    ¬configInvalid (on tiny).block ∧ 2 ≤ (on tiny).block.blocksize.toInt ∧
    (on tiny).block.blocksize.toInt ≤ 65536 := by
  unfold configInvalid; decide

/-- Two blocks with equal staging registers that differ elsewhere. -/
theorem witness_ConfigTwiceIsConfigOnce :
    (∃ t, exec .config (on tiny) = .next t) ∧
    (∃ t, exec .config (on { gap with nch := 3#32, cnt := 7#4 }) = .next t) ∧
    tiny.blocksize = gap.blocksize ∧ tiny.hopsize = gap.hopsize ∧
    tiny.samplerate = gap.samplerate := ⟨⟨_, rfl⟩, ⟨_, rfl⟩, rfl, rfl, rfl⟩

theorem witness_WinWindowsAndPads :
    ready (on tiny).block ∧ (on tiny).block.nch = 2#32 ∧
    (on tiny).block.ablock.toInt ≤ (((on tiny).block.inlen.get .ch1).toNat : Int) ∧
    (on tiny).block.rowWritten .ch1 :=
  ⟨witness_ready, rfl, by decide, witness_written .ch1⟩

/-- FFT, CONJ, CMUL and SMOOTH. -/
theorem witness_FftConjCmulSmooth : ready (on tiny).block := witness_ready

theorem witness_TickCountsBelowTen :
    (on tiny).block.configured = true ∧ (on { tiny with cnt := 8#4 }).block.cnt.toNat < 9 := by
  decide

/-- B = 6 and N = 8 at the given count: every range of the extraction holds an element. -/
def wide (cnt : BitVec 4) : Block B64 :=
  { tiny with
    cnt := cnt, inlen := ⟨6#32, 6#32⟩, ablock := 6#32, nfft := 8#32
    inp := ⟨(List.range 6).map fun i => (i, three), (List.range 6).map fun i => (i, f64One)⟩
    win := List.replicate 6 f64One
    xbuf := ⟨zeros 8, zeros 8⟩
    spec := ⟨zeros 16, zeros 16⟩
    conj := ⟨zeros 16, zeros 16⟩
    inst := ⟨zeros 16, zeros 16, zeros 16⟩
    acc := ⟨zeros 16, zeros 16, zeros 16⟩
    out := ⟨zeros 10, zeros 5, zeros 5⟩ }

theorem wide_ready (cnt : BitVec 4) : ready (wide cnt) := by
  unfold ready; revert cnt; decide

theorem wide_written (cnt : BitVec 4) (c : Channel) : (wide cnt).rowWritten c := by
  intro n hn
  have hn : n < 6 := hn
  cases c <;> interval_cases n <;> rfl

theorem wide_callReady (cnt : BitVec 4) : (wide cnt).CallReady :=
  ⟨rfl, rfl, by revert cnt; decide, by revert cnt; decide, wide_written cnt .ch0, wide_written cnt .ch1⟩

/-- N = 2 and N = 8. -/
theorem witness_TickEmitsOnTheTenth :
    (ready (on { tiny with cnt := 9#4 }).block ∧ (on { tiny with cnt := 9#4 }).block.cnt = 9#4) ∧
    ready (on (wide 9#4)).block ∧ (on (wide 9#4)).block.cnt = 9#4 ∧
    4 ≤ (wide 9#4).fftLen ∧ 1 < (wide 9#4).fftLen / 2 - 1 :=
  ⟨⟨witness_ready, rfl⟩, wide_ready _, rfl, by decide, by decide⟩

/-- At count 8 and at count 9, for N = 2 and N = 8. -/
theorem witness_ProcessRunsTheWholeCall :
    (ready (on { tiny with cnt := 9#4 }).block ∧ (on { tiny with cnt := 9#4 }).block.CallReady ∧
      (on { tiny with cnt := 9#4 }).block.cnt.toNat = 9) ∧
    (ready (on { tiny with cnt := 8#4 }).block ∧ (on { tiny with cnt := 8#4 }).block.CallReady ∧
      (on { tiny with cnt := 8#4 }).block.cnt.toNat < 9) ∧
    (ready (on (wide 9#4)).block ∧ (on (wide 9#4)).block.CallReady ∧
      (on (wide 9#4)).block.cnt.toNat = 9) ∧
    ready (on (wide 8#4)).block ∧ (on (wide 8#4)).block.CallReady ∧
    (on (wide 8#4)).block.cnt.toNat < 9 :=
  ⟨⟨witness_ready, witness_callReadyAt 9#4, rfl⟩, ⟨witness_ready, witness_callReadyAt 8#4, by decide⟩,
    ⟨wide_ready _, wide_callReady _, rfl⟩, wide_ready _, wide_callReady _, by decide⟩

/-- PROCESS on `tiny` completes. -/
theorem tiny_process : ∃ b, runProcess params tiny = .ok b ∧ b.err = .ok := by
  obtain ⟨row0, h0, _⟩ := winEffect_of_written params (witness_written .ch0)
  obtain ⟨row1, h1, _⟩ := winEffect_of_written params (witness_written .ch1)
  have hp : ∃ b, processEffect params tiny = .ok b := by
    rcases processEffect_cases params tiny with ⟨r0, r1, _, _, h⟩ | ⟨c, i, e, _⟩
    · exact ⟨_, h⟩
    · cases c
      · rw [h0] at e; cases e
      · rw [h1] at e; cases e
  obtain ⟨b, hp⟩ := hp
  refine ⟨b.complete, ?_, rfl⟩
  rcases Block.checkedCommand_cases Block.processInputBad (processEffect params) tiny with
    ⟨h, _⟩ | ⟨_, h, _⟩ | ⟨_, _, h⟩
  · cases h
  · exact absurd h (by decide)
  · rw [runProcess, h, hp]; rfl

theorem witness_ProcessDoesNothingOrEverything :
    (on { tiny with nch := 0#32 }).block.configured = true ∧
    (∃ t, exec .process (on { tiny with nch := 0#32 }) = .next t) ∧
    ∃ t, exec .process (on tiny) = .next t := by
  refine ⟨rfl, ⟨_, rfl⟩, ?_⟩
  obtain ⟨b, h, _⟩ := tiny_process
  refine ⟨(on tiny).withBlock b, ?_⟩
  change (on tiny).outcome (runProcess params tiny) = _
  rw [h]; rfl

theorem witness_ProcessEqualsItsThirteenSteps :
    (on tiny).block.configured = true ∧ (on tiny).block.nch = 2#32 ∧
    (on tiny).block.ablock.toInt ≤ ((on tiny).block.inlen.ch0.toNat : Int) ∧
    (on tiny).block.ablock.toInt ≤ ((on tiny).block.inlen.ch1.toNat : Int) := by decide

/-- Channel 1 too short, channel 0 accepted: the sequence runs to its end. -/
theorem witness_ProcessEqualsItsThirteenSteps_failing :
    (on { tiny with inlen := ⟨2#32, 1#32⟩ }).block.configured = true ∧
    (((on { tiny with inlen := ⟨2#32, 1#32⟩ }).block.inlen.ch1.toNat : Int)
      < (on tiny).block.ablock.toInt) ∧
    ∃ u, execAll stepCommands (on { tiny with inlen := ⟨2#32, 1#32⟩ }) = .next u :=
  ⟨rfl, by decide, ⟨_, rfl⟩⟩

/-- `tiny` with the alpha and the window that CONFIG computes. -/
def good : Block B64 :=
  { tiny with
    alpha := alphaOf params.num tiny.ablock.toInt tiny.ahop.toInt tiny.afs
    win := firstElems params.num tiny.blockLen (params.winGen tiny.blockLen tiny.fftLen) }

theorem good_cap : good.ablock.toInt ≤ ((params.inCap : Nat) : Int) := by
  change (2 : Int) ≤ ((2 ^ 16 : Nat) : Int)
  norm_num

theorem good_inv : good.Inv params where
  count_lt := by decide
  input_canonical := fun c => by cases c <;> decide
  input_bounded := fun c e he => by
    have h : e.1 ≤ 1 := by
      cases c <;> simp [good, tiny, PerChannel.get] at he <;> rcases he with rfl | rfl <;> simp
    exact Nat.lt_of_le_of_lt h (by decide)
  lengths := by
    have h : good.win.length = 2 := firstElems_length _ _ _
    have hb : good.blockLen = 2 := rfl
    have hn : good.fftLen = 2 := rfl
    simp only [Block.sized, Block.lengthsAre, h, hb, hn]
    decide
  configured_ok := fun _ =>
    ⟨by decide, by decide, by decide, good_cap, by decide, by decide, by decide,
      by simp only [good], by simp only [good, Block.blockLen, Block.fftLen], rfl, rfl,
      fun h => absurd h (by decide), fun h => absurd h (by decide)⟩
  unconfigured_ok := fun h => by cases h

/-- A configured state that meets the invariant and takes a step, and an unconfigured one. -/
theorem witness_EveryStepKeepsTheInvariant :
    (on good).Inv ∧ (∃ t, step (told good (.regWrite 0 (.word 0x00000015#32))) = .next t) :=
  ⟨good_inv, ⟨_, rfl⟩⟩

theorem witness_ConfiguredSizesAreInRange : (on good).Inv ∧ (on good).block.configured = true :=
  ⟨good_inv, rfl⟩

/-- N = 4, so that the rows OUT1 and OUT2 have their gap at element 1. -/
def goodFour : Block B64 :=
  { tiny with
    ablock := 3#32, ahop := 1#32, nfft := 4#32
    alpha := alphaOf params.num (3#32 : W32).toInt (1#32 : W32).toInt tiny.afs
    win := firstElems params.num 3 (params.winGen 3 4)
    xbuf := ⟨zeros 4, zeros 4⟩
    spec := ⟨zeros 8, zeros 8⟩
    conj := ⟨zeros 8, zeros 8⟩
    inst := ⟨zeros 8, zeros 8, zeros 8⟩
    acc := ⟨zeros 8, zeros 8, zeros 8⟩
    out := ⟨zeros 6, zeros 3, zeros 3⟩ }

theorem goodFour_cap : goodFour.ablock.toInt ≤ ((params.inCap : Nat) : Int) := by
  change (3 : Int) ≤ ((2 ^ 16 : Nat) : Int)
  norm_num

theorem goodFour_inv : goodFour.Inv params where
  count_lt := by decide
  input_canonical := good_inv.input_canonical
  input_bounded := good_inv.input_bounded
  lengths := by
    have h : goodFour.win.length = 3 := firstElems_length _ _ _
    have hb : goodFour.blockLen = 3 := rfl
    have hn : goodFour.fftLen = 4 := rfl
    simp only [Block.sized, Block.lengthsAre, h, hb, hn]
    decide
  configured_ok := fun _ =>
    ⟨by decide, by decide, by decide, goodFour_cap, by decide, by decide, by decide,
      by simp only [goodFour], rfl, rfl, rfl, fun _ => rfl, fun _ => rfl⟩
  unconfigured_ok := fun h => by cases h

/-- Element 5 of OUT0 and element 1 of OUT2, at N = 4. -/
theorem witness_UnwrittenOutputElementsReadZero :
    (told goodFour (.memRead 15 5)).Inv ∧ (told goodFour (.memRead 15 5)).block.configured = true ∧
    (told goodFour (.memRead 15 5)).pending = .memRead 15 5 :: [] ∧ 5 = goodFour.fftLen + 1 ∧
    (told goodFour (.memRead 17 1)).Inv ∧
    (told goodFour (.memRead 17 1)).pending = .memRead 17 1 :: [] ∧ 4 ≤ goodFour.fftLen ∧
    1 = goodFour.fftLen / 2 - 1 :=
  ⟨goodFour_inv, rfl, rfl, rfl, goodFour_inv, rfl, by decide, rfl⟩

/-- A NaN at element 3 of ACC1, and a SMOOTH of that bank. -/
theorem witness_NanStaysInTheAccumulator :
    Instr.smooth 1#8 ≠ .config ∧ f64IsNaN 0x7FF8000000000000#64 = true ∧
    ((on { tiny with acc := ⟨zeros 4, [0#64, 0#64, 0#64, 0x7FF8000000000000#64], zeros 4⟩ }).block.acc.get
      .auto0)[3]? = some 0x7FF8000000000000#64 ∧
    ∃ t, exec (.smooth 1#8)
      (on { tiny with acc := ⟨zeros 4, [0#64, 0#64, 0#64, 0x7FF8000000000000#64], zeros 4⟩ })
      = .next t :=
  ⟨by decide, by decide, rfl, ⟨_, rfl⟩⟩

theorem witness_NoCommandWritesTheHostsRegisters :
    ∃ t, exec .config (on tiny) = .next t := ⟨_, rfl⟩

theorem witness_OnlyConfigChangesTheConfiguration :
    Instr.tick ≠ .config ∧ ∃ t, exec .tick (on tiny) = .next t := ⟨by decide, ⟨_, rfl⟩⟩

/-- For each clause the same command for another channel or spectrum; for the last, a SMOOTH. -/
theorem witness_BanksAreWrittenOnlyByTheirCommand :
    ((∃ t, exec (.win 0#8) (on tiny) = .next t) ∧ Instr.win 0#8 ≠ .win (chanArg .ch1)) ∧
    ((∃ t, exec (.fft 1#8) (on tiny) = .next t) ∧ Instr.fft 1#8 ≠ .fft (chanArg .ch0)) ∧
    ((∃ t, exec (.conj 0#8) (on tiny) = .next t) ∧ Instr.conj 0#8 ≠ .conj (chanArg .ch1)) ∧
    ((∃ t, exec (.cmul 0#8) (on tiny) = .next t) ∧ Instr.cmul 0#8 ≠ .cmul (specArg .auto0)) ∧
    ((∃ t, exec (.smooth 2#8) (on tiny) = .next t) ∧ Instr.smooth 2#8 ≠ .smooth (specArg .auto0)) ∧
    Instr.smooth 2#8 ≠ .config ∧ Instr.smooth 2#8 ≠ .process ∧ Instr.smooth 2#8 ≠ .tick := by
  refine ⟨⟨?_, by decide⟩, ⟨⟨_, rfl⟩, by decide⟩, ⟨⟨_, rfl⟩, by decide⟩, ⟨⟨_, rfl⟩, by decide⟩,
    ⟨⟨_, rfl⟩, by decide⟩, by decide, by decide, by decide⟩
  exact ⟨_, rfl⟩

/-- CONFIG on `tiny`. -/
def configured : State := (on tiny).withBlock (runConfig params tiny)

theorem configured_callReady : (fed configured tiny.inp tiny.inlen).block.CallReady := by
  have hb : (fed configured tiny.inp tiny.inlen).block.blockLen = 2 := by decide +kernel
  have hw : ∀ c, (fed configured tiny.inp tiny.inlen).block.rowWritten c := fun c n hn => by
    rw [hb] at hn
    exact witness_written c n hn
  exact ⟨by decide +kernel, rfl, by decide +kernel, by decide +kernel, hw .ch0, hw .ch1⟩

/-- CONFIG on `tiny` ends OK; the same input is given before every call. -/
theorem witness_OneOutputPerTenCalls :
    ∃ t, exec .config (on tiny) = .next t ∧ t.block.err = .ok ∧
      ∀ m, (fed t ((fun _ => tiny.inp) m) ((fun _ : Nat => tiny.inlen) m)).block.CallReady :=
  ⟨configured, rfl, by decide +kernel, fun _ => configured_callReady⟩

theorem witness_TicksCountModuloTen :
    ∃ t, exec .config (on tiny) = .next t ∧ t.block.err = .ok :=
  let ⟨t, h, e, _⟩ := witness_OneOutputPerTenCalls
  ⟨t, h, e⟩

/-- A call, a legal step command and an operand out of its range. -/
theorem witness_WrittenInputRunsToTheEnd :
    (on tiny).block.configured = true ∧ (on tiny).block.rowWritten .ch0 ∧
    (on tiny).block.rowWritten .ch1 ∧
    (∀ i ∈ [Instr.process, .win 1#8, .fft 7#8], i ≠ .config) ∧
    ({ on tiny with pending := [Instr.process, .win 1#8, .fft 7#8].map commandWrite } : State).pending
      = [Instr.process, .win 1#8, .fft 7#8].map commandWrite :=
  ⟨rfl, witness_written .ch0, witness_written .ch1, by decide, rfl⟩

/-! ### Functions -/

/-- At 1, where the least exponent is 0, and at 3, where it is not. -/
theorem witness_NextPowerOfTwoIsTheSmallest : 1 ≤ 1 ∧ 1 ≤ 2 ^ 0 ∧ 3 ≤ 2 ^ 2 ∧ 2 ^ (2 - 1) < 3 := by
  decide

theorem witness_RealAlphaIsInTheUnitInterval : (0 : Int) < 1 ∧ (1 : Int) ≤ 2 ∧ (0 : ℝ) < 8 :=
  ⟨by decide, by decide, by norm_num⟩

/-- A rate of 8, and the smallest positive rate, whose eighth is a zero, with B = H and B ≠ H. -/
theorem witness_BinaryAlphaIsInTheUnitInterval :
    (f64IsFinite eight = true ∧ f64Le0 eight = false ∧
      f64IsZero (f64Mul eight f64Eighth) = false) ∧
    (f64IsFinite 1#64 = true ∧ f64Le0 1#64 = false ∧ f64IsZero (f64Mul 1#64 f64Eighth) = true) ∧
    (0 : Int) < 1 ∧ (1 : Int) ≤ 2 ∧ (2 : Int) < 2 ^ 31 := by decide +kernel

/-- The last clause: a rate of 4 with B = 400, H = 27, a quotient of 746; and the smallest rate, a
quotient that is an infinity. -/
theorem witness_BinaryAlphaIsInTheUnitInterval_underflow :
    (f64IsFinite four = true ∧ f64Le0 four = false ∧ (0 : Int) < 27 ∧ (27 : Int) ≤ 400 ∧
      7452 / 10 < f64Value (f64Div (f64OfInt (400 - 27)) (f64Mul four f64Eighth)) ∧
      f64IsFinite (f64Div (f64OfInt (400 - 27)) (f64Mul four f64Eighth)) = true) ∧
    f64IsInf (f64Div (f64OfInt (2 - 1)) (f64Mul 1#64 f64Eighth)) = true := by decide +kernel

/-- The least size and the greatest. -/
theorem witness_DefaultWindowIsNormalised : 2 ≤ 2 ∧ 2 ≤ 65536 ∧ 65536 ≤ 65536 := by norm_num

/-- N = 1 and N = 2. -/
theorem witness_DefaultFftHasTwoNElements : [f64One].length = 2 ^ 0 ∧ [f64One, f64Two].length = 2 ^ 1 :=
  ⟨rfl, rfl⟩

theorem witness_DefaultFftIsTheReferenceTransform :
    ([3] : List ℝ).length = 2 ^ 0 ∧ ([3, 1] : List ℝ).length = 2 ^ 1 := ⟨rfl, rfl⟩

/-- N = 4: bin 1 mirrors bin 3; and zeros, over the reals and of both signs in binary64. -/
theorem witness_DefaultFftIsHermitian :
    ([3, 1, 2, 5] : List ℝ).length = 2 ^ (1 + 1) ∧ 1 ≤ 1 ∧ 1 < 2 ^ 1 ∧
    (∀ v ∈ ([0, 0] : List ℝ), numReal.isZero v = true) ∧ 1 ≤ 30 ∧
    [0#64, negZero].length = 2 ^ 1 ∧ ∀ v ∈ [0#64, negZero], numB64.isZero v = true :=
  ⟨rfl, by decide, by decide, by simp [numReal], by decide, rfl, fun v hv => by
    rcases List.mem_pair.1 hv with rfl | rfl <;> decide⟩

/-- A configured block over the reals, B = N = 2, whose samples are all 0. -/
noncomputable def silent : Block ℝ :=
  { Block.reset (0 : ℝ) with
    configured := true
    nch := 2#32, inlen := ⟨2#32, 2#32⟩
    ablock := 2#32, ahop := 1#32, afs := 8, nfft := 2#32, alpha := 1 / 2
    inp := ⟨[(0, 0), (1, 0)], [(0, 0), (1, 0)]⟩
    win := [0, 1]
    xbuf := ⟨[0, 0], [0, 0]⟩
    spec := ⟨[0, 0, 0, 0], [0, 0, 0, 0]⟩
    conj := ⟨[0, 0, 0, 0], [0, 0, 0, 0]⟩
    inst := ⟨[0, 0, 0, 0], [0, 0, 0, 0], [0, 0, 0, 0]⟩
    acc := ⟨[0, 0, 0, 0], [0, 0, 0, 0], [0, 0, 0, 0]⟩
    out := ⟨[0, 0, 0, 0], [0, 0], [0, 0]⟩ }

/-- A transform with zeros everywhere. -/
def zeroFft (N : Nat) (_ : List ℝ) : List ℝ := List.replicate (2 * N) 0

theorem silent_samples (c : Channel) (n : Nat) (hn : n < silent.blockLen) :
    memRead (silent.inp.get c) n = some 0 := by
  have hn : n < 2 := hn
  cases c <;> interval_cases n <;> rfl

theorem silent_callReady : silent.CallReady :=
  ⟨rfl, rfl, by decide, by decide, fun n hn => by rw [silent_samples _ n hn]; rfl,
    fun n hn => by rw [silent_samples _ n hn]; rfl⟩

theorem silent_sized : silent.sized = true := by
  simp [Block.sized, Block.lengthsAre, silent, Block.blockLen, Block.fftLen]

theorem silent_acc (k : Spectrum) : ∀ v ∈ silent.acc.get k, v = 0 := by
  cases k <;> simp [silent, PerSpectrum.get]

theorem silent_out (k : Spectrum) : ∀ v ∈ silent.out.get k, v = 0 := by
  cases k <;> simp [silent, PerSpectrum.get]

/-- A call on `silent` is accepted, runs to its end and ends OK. -/
theorem silent_process (p : Params ℝ) : ∃ b, runProcess p silent = .ok b ∧ b.err = .ok := by
  obtain ⟨row0, h0, _⟩ := winEffect_of_written p silent_callReady.row0_written
  obtain ⟨row1, h1, _⟩ := winEffect_of_written p silent_callReady.row1_written
  have hp : ∃ b, processEffect p silent = .ok b := by
    rcases processEffect_cases p silent with ⟨r0, r1, _, _, h⟩ | ⟨c, i, e, _⟩
    · exact ⟨_, h⟩
    · cases c
      · rw [h0] at e; cases e
      · rw [h1] at e; cases e
  obtain ⟨b, hp⟩ := hp
  refine ⟨b.complete, ?_, rfl⟩
  rcases Block.checkedCommand_cases Block.processInputBad (processEffect p) silent with
    ⟨h, _⟩ | ⟨_, h, _⟩ | ⟨_, _, h⟩
  · cases h
  · exact absurd h (by decide)
  · rw [runProcess, h, hp]; rfl

theorem witness_SmoothingHasItsClosedForm :
    silent.configured = true ∧ (silent.acc.get .auto0).length = 2 * silent.fftLen ∧
    3 < 2 * silent.fftLen ∧ realElem silent.acc .auto0 3 = 0 ∧
    (∀ I ∈ ([[5, 5, 5, 5], [5, 5, 5, 5]] : List (List ℝ)), I.getD 3 0 = 5) ∧
    (∀ I ∈ ([[-5, -5, -5, -5]] : List (List ℝ)), I.getD 3 0 = -5) ∧
    0 ≤ silent.alpha ∧ silent.alpha ≤ 1 ∧ 1 ≤ 16 ∧ 16 ≤ 30 ∧
    ({ silent with alpha := 1 } : Block ℝ).alpha = 1 ∧
    ({ silent with alpha := 0 } : Block ℝ).alpha = 0 ∧
    ([[5, 5, 5, 5], [5, 5, 5, 5]] : List (List ℝ)) ≠ [] := by
  refine ⟨rfl, rfl, by decide, rfl, by simp, by simp, ?_, ?_, by decide, by decide, rfl, rfl,
    by simp⟩ <;> norm_num [silent]

theorem witness_RepeatedBlockConverges :
    silent.CallReady ∧ silent.sized = true ∧ (∀ k, ∀ v ∈ silent.acc.get k, v = 0) ∧
    3 < 2 * silent.fftLen ∧ 0 ≤ silent.alpha ∧ silent.alpha ≤ 1 :=
  ⟨silent_callReady, silent_sized, silent_acc, by decide, by norm_num [silent],
    by norm_num [silent]⟩

theorem zeroFft_len : FftLen zeroFft := fun m x _ => by simp [zeroFft]

theorem zeroFft_herm : FftHerm numReal zeroFft := by
  have h : ∀ n x i, elem numReal (zeroFft n x) i = 0 := by
    intro n x i
    simp only [elem, zeroFft, numReal, List.getD_eq_getElem?_getD, List.getElem?_replicate]
    split <;> rfl
  intro m x _
  simp only [h]
  simp [numReal]

theorem zeroFft_zero (top : Nat) : FftZero numReal top zeroFft := by
  intro m x _ _ _ v hv
  simp [zeroFft] at hv
  simp [numReal, hv]

theorem witness_CallsKeepTheAccumulatorSymmetric :
    FftLen zeroFft ∧ FftHerm numReal zeroFft ∧ silent.configured = true ∧ silent.sized = true ∧
    silent.fftLen = 2 ^ (0 + 1) ∧ 0 ≤ silent.alpha ∧ silent.alpha ≤ 1 ∧
    accSymmetric silent.fftLen silent.acc ∧
    ∃ b, runProcess (realParams (winDefault numReal) zeroFft 16 (by decide)) silent = .ok b ∧ b.err = .ok := by
  refine ⟨zeroFft_len, zeroFft_herm, rfl, silent_sized, rfl, ?_, ?_, ?_, silent_process _⟩
  · norm_num [silent]
  · norm_num [silent]
  · have h : ∀ k i, realElem silent.acc k i = 0 := by
      intro k i
      rcases Nat.lt_or_ge i 4 with hi | hi
      · cases k <;> interval_cases i <;> rfl
      · cases k <;> exact List.getD_eq_default _ _ hi
    simp [accSymmetric, h]

/-- `good` with the hop the whole block, so that alpha is 1, and zeros of both signs for samples. -/
def quiet : Block B64 :=
  { good with
    ahop := 2#32
    alpha := alphaOf params.num tiny.ablock.toInt (2#32 : W32).toInt tiny.afs
    inp := ⟨[(0, 0#64), (1, negZero)], [(0, 0#64), (1, 0#64)]⟩ }

theorem quiet_samples (c : Channel) (n : Nat) (hn : n < quiet.blockLen) :
    ∃ v, memRead (quiet.inp.get c) n = some v ∧ f64IsZero v = true := by
  have hn : n < 2 := hn
  cases c <;> interval_cases n <;> exact ⟨_, rfl, by decide⟩

theorem quiet_inv : quiet.Inv params where
  count_lt := by decide
  input_canonical := fun c => by cases c <;> decide
  input_bounded := fun c e he => by
    have h : e.1 ≤ 1 := by
      cases c <;> simp [quiet, PerChannel.get] at he <;> rcases he with rfl | rfl <;> simp
    exact Nat.lt_of_le_of_lt h (by decide)
  lengths := by
    have h : quiet.win.length = 2 := firstElems_length _ _ _
    have hb : quiet.blockLen = 2 := rfl
    have hn : quiet.fftLen = 2 := rfl
    simp only [Block.sized, Block.lengthsAre, h, hb, hn]
    decide
  configured_ok := fun _ =>
    ⟨by decide, by decide, by decide, good_cap, by decide, by decide, by decide,
      by simp only [quiet, good], (good_inv.configured_ok rfl).win_eq, rfl, rfl,
      fun h => absurd h (by decide), fun h => absurd h (by decide)⟩
  unconfigured_ok := fun h => by cases h

theorem quiet_zero (k : Spectrum) :
    (∀ v ∈ quiet.acc.get k, f64IsZero v = true) ∧ ∀ v ∈ quiet.out.get k, f64IsZero v = true := by
  change (∀ v ∈ tiny.acc.get k, _) ∧ ∀ v ∈ tiny.out.get k, _
  cases k <;> exact ⟨fun v hv => by rw [List.eq_of_mem_replicate hv]; decide,
    fun v hv => by rw [List.eq_of_mem_replicate hv]; decide⟩

/-- A call on a configured, accepted and written block completes. -/
theorem callReady_process {b : Block B64} (h : b.CallReady) :
    ∃ t, exec .process (on b) = .next t := by
  obtain ⟨row0, h0, _⟩ := winEffect_of_written params h.row0_written
  obtain ⟨row1, h1, _⟩ := winEffect_of_written params h.row1_written
  change ∃ t, (on b).outcome (runProcess params b) = _
  rcases Block.checkedCommand_cases Block.processInputBad (processEffect params) b with
    ⟨_, e⟩ | ⟨_, _, e⟩ | ⟨_, _, e⟩
  · rw [runProcess, e]; exact ⟨_, rfl⟩
  · rw [runProcess, e]; exact ⟨_, rfl⟩
  · rcases processEffect_cases params b with ⟨_, _, _, _, hp⟩ | ⟨c, i, hc, _⟩
    · rw [runProcess, e, hp]; exact ⟨_, rfl⟩
    · cases c
      · rw [h0] at hc; cases hc
      · rw [h1] at hc; cases hc

theorem quiet_callReady : quiet.CallReady :=
  ⟨rfl, rfl, by decide, by decide,
    fun n hn => by obtain ⟨v, h, _⟩ := quiet_samples .ch0 n hn; rw [h]; rfl,
    fun n hn => by obtain ⟨v, h, _⟩ := quiet_samples .ch1 n hn; rw [h]; rfl⟩

/-- The clause on the machine. -/
theorem witness_SilenceKeepsEverythingZero_binary :
    (on quiet).Inv ∧ (on quiet).block.configured = true ∧
    f64IsFinite (on quiet).block.alpha = true ∧
    (∀ c n, n < (on quiet).block.blockLen →
      ∃ v, memRead ((on quiet).block.inp.get c) n = some v ∧ f64IsZero v = true) ∧
    (∀ k, ∀ v ∈ (on quiet).block.acc.get k, f64IsZero v = true) ∧
    (∀ k, ∀ v ∈ (on quiet).block.out.get k, f64IsZero v = true) ∧
    ∃ t, exec .process (on quiet) = .next t :=
  ⟨quiet_inv, rfl, by decide +kernel, quiet_samples, fun k => (quiet_zero k).1,
    fun k => (quiet_zero k).2, callReady_process quiet_callReady⟩

theorem witness_SilenceKeepsEverythingZero :
    FftZero numReal 1 zeroFft ∧ silent.configured = true ∧ silent.sized = true ∧
    silent.fftLen = 2 ^ 1 ∧
    (∀ c n, n < silent.blockLen → memRead (silent.inp.get c) n = some 0) ∧
    (∀ k, ∀ v ∈ silent.acc.get k, v = 0) ∧ (∀ k, ∀ v ∈ silent.out.get k, v = 0) ∧
    ∃ b, runProcess (realParams (winDefault numReal) zeroFft 16 (by decide)) silent = .ok b :=
  ⟨zeroFft_zero 1, rfl, silent_sized, rfl, silent_samples, silent_acc, silent_out,
    let ⟨b, h, _⟩ := silent_process _; ⟨b, h⟩⟩

theorem witness_BinaryOperationsAreCorrectlyRounded :
    f64IsFinite f64One = true ∧ f64IsFinite f64Two = true ∧ f64IsZero f64Two = false ∧
    f64IsZero negZero = true ∧ f64Sign f64Two = false := by decide

end Sys2Proof.Tests
end

section
/-!
SUPPORT. NUM_B64 rounds correctly (00_scope.md R13): what the bits of a built datum say, which
numbers of units are data, and from these that a result packed at its last place is the nearest datum.
-/

namespace Sys2Proof.Machine

open Sys2Proof.Claims

/-! ## The bits of a datum -/

theorem f64Make_toNat (sign : Bool) {m : Nat} (h : m < 2 ^ 63) :
    (f64Make sign m).toNat = (if sign then 2 ^ 63 else 0) + m := by
  rw [f64Make, BitVec.toNat_ofNat]
  split <;> omega

theorem f64Sign_make (sign : Bool) {m : Nat} (h : m < 2 ^ 63) : f64Sign (f64Make sign m) = sign := by
  rw [f64Sign, BitVec.msb_eq_decide, f64Make_toNat sign h]
  cases sign <;> simp
  omega

theorem f64Exponent_make (sign : Bool) {m : Nat} (h : m < 2 ^ 63) :
    f64Exponent (f64Make sign m) = m / 2 ^ 52 := by
  rw [f64Exponent, f64Make_toNat sign h]
  split <;> omega

theorem f64Fraction_make (sign : Bool) {m : Nat} (h : m < 2 ^ 63) :
    f64Fraction (f64Make sign m) = m % 2 ^ 52 := by
  rw [f64Fraction, f64Make_toNat sign h]
  split <;> omega

theorem f64Make_parity (sign : Bool) {m : Nat} (h : m < 2 ^ 63) :
    (f64Make sign m).toNat % 2 = m % 2 := by
  rw [f64Make_toNat sign h]
  split <;> omega

theorem f64IsFinite_make (sign : Bool) {m : Nat} (h : m < 2047 * 2 ^ 52) :
    f64IsFinite (f64Make sign m) = true := by
  rw [f64IsFinite, f64Exponent_make sign (by omega), decide_eq_true_iff]
  omega

theorem f64IsInf_inf (sign : Bool) : f64IsInf (f64Inf sign) = true := by cases sign <;> decide

theorem f64IsFinite_inf (sign : Bool) : f64IsFinite (f64Inf sign) = false := by
  cases sign <;> decide

theorem f64Sign_inf (sign : Bool) : f64Sign (f64Inf sign) = sign := f64Sign_make sign (by decide)

theorem f64IsZero_zero (sign : Bool) : f64IsZero (f64Zero sign) = true := by cases sign <;> decide

theorem f64IsNaN_of_finite {a : B64} (h : f64IsFinite a = true) : f64IsNaN a = false := by
  have he : f64Exponent a ≠ 2047 := by simpa [f64IsFinite] using h
  simp [f64IsNaN, he]

theorem f64IsInf_of_finite {a : B64} (h : f64IsFinite a = true) : f64IsInf a = false := by
  have he : f64Exponent a ≠ 2047 := by simpa [f64IsFinite] using h
  simp [f64IsInf, he]

theorem f64Mag_eq_zero_iff (a : B64) : f64Mag a = 0 ↔ f64IsZero a = true := by
  rw [f64IsZero, decide_eq_true_iff, f64Mag]
  by_cases he : f64Exponent a = 0
  · rw [if_pos he]
    unfold f64Exponent f64Fraction at *
    omega
  · rw [if_neg he]
    have hm : (2 ^ 52 + f64Fraction a) * 2 ^ (f64Exponent a - 1) ≠ 0 := by positivity
    unfold f64Exponent at he
    exact iff_of_false hm (by omega)

theorem f64Neg_low (a : B64) : (f64Neg a).toNat % 2 ^ 63 = a.toNat % 2 ^ 63 := by
  rw [f64Neg, BitVec.toNat_xor, Nat.xor_mod_two_pow]
  simp

@[simp] theorem f64Sign_neg (a : B64) : f64Sign (f64Neg a) = !f64Sign a := by
  have h : (0x8000000000000000#64).msb = true := by decide
  rw [f64Sign, f64Neg, BitVec.msb_xor, h, Bool.xor_true, f64Sign]

@[simp] theorem f64Exponent_neg (a : B64) : f64Exponent (f64Neg a) = f64Exponent a := by
  have h := f64Neg_low a
  unfold f64Exponent
  omega

@[simp] theorem f64Fraction_neg (a : B64) : f64Fraction (f64Neg a) = f64Fraction a := by
  have h := f64Neg_low a
  unfold f64Fraction
  omega

@[simp] theorem f64Mag_neg (a : B64) : f64Mag (f64Neg a) = f64Mag a := by simp [f64Mag]

@[simp] theorem f64IsFinite_neg (a : B64) : f64IsFinite (f64Neg a) = f64IsFinite a := by
  simp [f64IsFinite]

/-! ## Data as real numbers -/

/-- The real number of magnitude y with this sign. -/
def signed (sign : Bool) (y : ℝ) : ℝ := if sign then -y else y

theorem signed_sub (s : Bool) (a b : ℝ) : signed s a - signed s b = signed s (a - b) := by
  cases s <;> simp [signed]
  ring

@[simp] theorem signed_signed (s : Bool) (a : ℝ) : signed s (signed s a) = a := by
  cases s <;> simp [signed]

@[simp] theorem abs_signed (s : Bool) (a : ℝ) : |signed s a| = |a| := by
  cases s <;> simp [signed]

theorem signed_mul_right (s : Bool) (a c : ℝ) : signed s a * c = signed s (a * c) := by
  cases s <;> simp [signed]

theorem signed_mul (s t : Bool) (a b : ℝ) : signed s a * signed t b = signed (s != t) (a * b) := by
  cases s <;> cases t <;> simp [signed]

theorem signed_div (s t : Bool) (a b : ℝ) : signed s a / signed t b = signed (s != t) (a / b) := by
  cases s <;> cases t <;> simp [signed, neg_div, div_neg]

theorem signed_lt_zero_iff (s : Bool) {a : ℝ} (h : 0 < a) : signed s a < 0 ↔ s = true := by
  cases s <;> simp [signed, h, h.le]

theorem f64Units_real (a : B64) : (f64Units a : ℝ) = signed (f64Sign a) (f64Mag a) := by
  unfold f64Units signed
  split <;> simp

theorem f64Value_real (a : B64) : (f64Value a : ℝ) = (f64Units a : ℝ) / (f64Scale : ℝ) := by
  have hs : (f64Scale : ℝ) = ((2 ^ 1074 : ℚ) : ℝ) := by
    rw [f64Scale_eq, Nat.cast_pow, Rat.cast_pow]
    rfl
  rw [f64Value, Rat.cast_div, hs, Rat.cast_intCast]

/-! ## The numbers of units that are data -/

/-- w is a whole number of places worth 2^q units, or too small for q to be its last place. -/
def onGrid (q : Nat) (w : ℝ) : Prop :=
  (∃ i : ℤ, w = i * 2 ^ q) ∨ (q ≠ 0 ∧ |w| < 2 ^ (52 + q))

theorem onGrid_signed {q : Nat} {w : ℝ} (s : Bool) (h : onGrid q w) : onGrid q (signed s w) := by
  rcases h with ⟨i, rfl⟩ | ⟨hq, h⟩
  · cases s
    · exact .inl ⟨i, rfl⟩
    · exact .inl ⟨-i, by simp [signed]⟩
  · exact .inr ⟨hq, by rwa [abs_signed]⟩

/-- A finite significand of 53 bits scaled by 2^e lies on every grid. -/
theorem onGrid_significand {m : Nat} (hm : m < 2 ^ 53) (e q : Nat) :
    onGrid q ((m * 2 ^ e : Nat) : ℝ) := by
  rcases Nat.lt_or_ge e q with h | h
  · refine .inr ⟨by omega, ?_⟩
    rw [Nat.abs_cast]
    have hlt : m * 2 ^ e < 2 ^ (52 + q) :=
      calc m * 2 ^ e < 2 ^ 53 * 2 ^ e := by gcongr
        _ = 2 ^ (53 + e) := (pow_add ..).symm
        _ ≤ 2 ^ (52 + q) := Nat.pow_le_pow_right (by decide) (by omega)
    exact_mod_cast hlt
  · left
    refine ⟨m * 2 ^ (e - q), ?_⟩
    push_cast
    rw [mul_assoc, ← pow_add, Nat.sub_add_cancel h]

theorem onGrid_units (z : B64) (q : Nat) : onGrid q (f64Units z) := by
  rw [f64Units_real]
  refine onGrid_signed _ ?_
  have hf : f64Fraction z < 2 ^ 52 := Nat.mod_lt _ (by decide)
  unfold f64Mag
  split
  · simpa using onGrid_significand (show f64Fraction z < 2 ^ 53 by omega) 0 q
  · exact onGrid_significand (by omega) _ q

/-! ## Rounding to the last place -/

/-- j is y rounded to the nearest number of places worth 2^q units, ties to even, and 2^q is the last
place of a result of that size. -/
structure RoundsTo (y : ℝ) (q j : Nat) : Prop where
  nonneg : 0 ≤ y
  place : q = 0 ∨ 2 ^ (52 + q) ≤ y
  below : y < 2 ^ (53 + q)
  near : 2 * |j * 2 ^ q - y| ≤ 2 ^ q
  even : 2 * |j * 2 ^ q - y| = 2 ^ q → j % 2 = 0

/-- Every other multiple of the place is at least half a place away. -/
theorem RoundsTo.place_le_of_ne {y : ℝ} {q j : Nat} (h : RoundsTo y q j) {i : ℤ} (hi : i ≠ j) :
    (2 : ℝ) ^ q ≤ 2 * |i * 2 ^ q - y| := by
  have hq : (0 : ℝ) < 2 ^ q := by positivity
  have hone : (1 : ℝ) ≤ |(i : ℝ) - j| := by exact_mod_cast Int.one_le_abs (sub_ne_zero.2 hi)
  have happart : (2 : ℝ) ^ q ≤ |(i : ℝ) * 2 ^ q - j * 2 ^ q| := by
    rw [← sub_mul, abs_mul, abs_of_pos hq]
    exact le_mul_of_one_le_left hq.le hone
  have htriangle := abs_sub_le ((i : ℝ) * 2 ^ q) y (j * 2 ^ q)
  rw [abs_sub_comm y] at htriangle
  linarith [h.near]

/-- No number on the grid is nearer to y than its rounding, and one as near leaves the rounding even. -/
theorem RoundsTo.nearest {y : ℝ} {q j : Nat} (h : RoundsTo y q j) {w : ℝ} (hw : onGrid q w) :
    |j * 2 ^ q - y| ≤ |w - y| ∧ (|j * 2 ^ q - y| = |w - y| → w ≠ j * 2 ^ q → j % 2 = 0) := by
  have le_mult : ∀ i : ℤ, |j * 2 ^ q - y| ≤ |i * 2 ^ q - y| := by
    intro i
    by_cases hi : i = j
    · rw [hi, Int.cast_natCast]
    · linarith [h.place_le_of_ne hi, h.near]
  rcases hw with ⟨i, rfl⟩ | ⟨hq0, hw⟩
  · refine ⟨le_mult i, fun heq hne => h.even ?_⟩
    have hi : i ≠ j := by rintro rfl; exact hne (by simp)
    linarith [h.place_le_of_ne hi, h.near]
  · -- below the binade of y, where 2^52 places already lie between
    have hy : (2 : ℝ) ^ (52 + q) ≤ y := h.place.resolve_left hq0
    have he : ((2 ^ 52 : ℤ) : ℝ) * 2 ^ q = 2 ^ (52 + q) := by
      rw [Int.cast_pow, Int.cast_ofNat, ← pow_add]
    have hlt : |j * 2 ^ q - y| < |w - y| :=
      calc |j * 2 ^ q - y| ≤ |((2 ^ 52 : ℤ) : ℝ) * 2 ^ q - y| := le_mult _
        _ = y - 2 ^ (52 + q) := by
          rw [he, abs_sub_comm, abs_of_nonneg (sub_nonneg.2 hy)]
        _ < y - w := by linarith [le_abs_self w]
        _ ≤ |w - y| := by rw [abs_sub_comm]; exact le_abs_self _
    exact ⟨hlt.le, fun heq => absurd heq hlt.ne⟩

theorem RoundsTo.le_top {y : ℝ} {q j : Nat} (h : RoundsTo y q j) : j ≤ 2 ^ 53 := by
  have hq : (0 : ℝ) < 2 ^ q := by positivity
  have hb := h.below
  rw [pow_add] at hb
  have hlt : (j : ℝ) * 2 ^ q < (2 ^ 53 + 1) * 2 ^ q := by
    linarith [h.near, le_abs_self ((j : ℝ) * 2 ^ q - y)]
  have hj : j < 2 ^ 53 + 1 := by exact_mod_cast lt_of_mul_lt_mul_right hlt hq.le
  omega

theorem RoundsTo.bottom_le {y : ℝ} {q j : Nat} (h : RoundsTo y q j) : q = 0 ∨ 2 ^ 52 ≤ j := by
  refine h.place.imp_right fun hy => ?_
  have hq : (0 : ℝ) < 2 ^ q := by positivity
  rw [pow_add] at hy
  have hlt : (2 ^ 52 : ℝ) * 2 ^ q < (j + 1) * 2 ^ q := by
    linarith [h.near, neg_abs_le ((j : ℝ) * 2 ^ q - y)]
  have hj : 2 ^ 52 < j + 1 := by exact_mod_cast lt_of_mul_lt_mul_right hlt hq.le
  omega

/-! ## The packed result -/

/-- The bits of a packed result hold its number of places and its last place. -/
theorem f64Mag_make {s : Bool} {q k : Nat} (hk : k ≤ 2 ^ 53) (hq : q = 0 ∨ 2 ^ 52 ≤ k)
    (h : q * 2 ^ 52 + k < 2047 * 2 ^ 52) : f64Mag (f64Make s (q * 2 ^ 52 + k)) = k * 2 ^ q := by
  rw [f64Mag, f64Exponent_make s (by omega), f64Fraction_make s (by omega)]
  rcases Nat.lt_or_ge k (2 ^ 52) with hlow | hhigh
  · obtain rfl : q = 0 := by omega
    rw [if_pos (by omega)]
    omega
  rcases Nat.lt_or_ge k (2 ^ 53) with hlt | htop
  · have he : (q * 2 ^ 52 + k) / 2 ^ 52 = q + 1 := by omega
    rw [he, if_neg (by omega), Nat.add_sub_cancel]
    congr 1
    omega
  · have he : (q * 2 ^ 52 + k) / 2 ^ 52 = q + 2 := by omega
    have hf : (q * 2 ^ 52 + k) % 2 ^ 52 = 0 := by omega
    have hk : k = 2 * 2 ^ 52 := by omega
    rw [he, hf, if_neg (by omega), hk, Nat.add_sub_assoc (by decide), pow_succ]
    ring

theorem f64Units_make (s : Bool) {q k : Nat} (hk : k ≤ 2 ^ 53) (hq : q = 0 ∨ 2 ^ 52 ≤ k)
    (h : q * 2 ^ 52 + k < 2047 * 2 ^ 52) :
    signed s (f64Units (f64Make s (q * 2 ^ 52 + k))) = k * 2 ^ q := by
  rw [f64Units_real, f64Sign_make s (by omega), f64Mag_make hk hq h, signed_signed, Nat.cast_mul,
    Nat.cast_pow, Nat.cast_ofNat]

theorem f64Pack_cases (s : Bool) (q k : Nat) :
    (q * 2 ^ 52 + k < 2047 * 2 ^ 52 ∧ f64Pack s q k = f64Make s (q * 2 ^ 52 + k)) ∨
    (2047 * 2 ^ 52 ≤ q * 2 ^ 52 + k ∧ f64Pack s q k = f64Inf s) := by
  unfold f64Pack
  split
  · exact .inl ⟨‹_›, rfl⟩
  · exact .inr ⟨by omega, rfl⟩

/-- Half a last place above the largest finite datum, in units: 2^54 - 1 halves of that place. -/
theorem overflow_units :
    ((2 : ℝ) ^ 1024 - 2 ^ 970) * (f64Scale : ℝ) = (2 ^ 54 - 1) * 2 ^ 2044 := by
  have hs : (f64Scale : ℝ) = 2 ^ 1074 := by rw [f64Scale_eq, Nat.cast_pow, Nat.cast_ofNat]
  rw [hs, sub_mul, sub_mul, one_mul, ← pow_add, ← pow_add, ← pow_add]

/-- A result is packed as an infinity exactly from half a place above the largest finite datum on; the
last place of the largest finite datum is worth 2^(e + 1) units. -/
theorem RoundsTo.below_top_iff {y : ℝ} {q j : Nat} (h : RoundsTo y q j) (e : Nat) :
    q * 2 ^ 52 + j < (e + 3) * 2 ^ 52 ↔ y < (2 ^ 54 - 1) * 2 ^ e := by
  have hj := h.le_top
  have hU : (0 : ℝ) < 2 ^ e := by positivity
  have hnear := abs_le.1 (show |(j : ℝ) * 2 ^ q - y| ≤ 2 ^ q / 2 by linarith [h.near])
  rcases lt_trichotomy q (e + 1) with hq | rfl | hq
  · -- a whole binade below the largest
    have hU53 : (2 : ℝ) ^ (53 + q) ≤ 2 ^ 53 * 2 ^ e := by
      rw [← pow_add]; exact pow_le_pow_right₀ (by norm_num) (by omega)
    exact iff_of_true (by omega) (by linarith [h.below])
  · -- the largest binade, where only the carry of j to 2^53 overflows
    rw [pow_succ] at hnear
    rcases Nat.lt_or_ge j (2 ^ 53) with hlt | htop
    · refine iff_of_true (by omega) (lt_of_not_ge fun hy => ?_)
      have hjle : (j : ℝ) + 1 ≤ 2 ^ 53 := by exact_mod_cast hlt
      have hmul : ((j : ℝ) + 1) * 2 ^ e ≤ 2 ^ 53 * 2 ^ e := by gcongr
      have hye : y = j * (2 ^ e * 2) + 2 ^ e := by linarith
      have hlast : (2 : ℝ) ^ 53 * 2 ^ e ≤ (j + 1) * 2 ^ e := by linarith
      have hjtop : 2 ^ 53 ≤ j + 1 := by exact_mod_cast le_of_mul_le_mul_right hlast hU
      have heven := h.even (by rw [pow_succ, hye, sub_add_cancel_left, abs_neg, abs_of_pos hU]; ring)
      omega
    · refine iff_of_false (by omega) (not_lt.2 ?_)
      have htop' : (2 : ℝ) ^ 53 * 2 ^ e ≤ j * 2 ^ e := by gcongr; exact_mod_cast htop
      linarith
  · have hq0 : q ≠ 0 := by omega
    have hy := h.place.resolve_left hq0
    have hb := h.bottom_le.resolve_left hq0
    have hU54 : (2 : ℝ) ^ 54 * 2 ^ e ≤ 2 ^ (52 + q) := by
      rw [← pow_add]; exact pow_le_pow_right₀ (by norm_num) (by omega)
    exact iff_of_false (by omega) (not_lt.2 (by linarith))

/-- How far a datum is from x, in units, when x is y units with the sign s. -/
theorem f64Value_dist {s : Bool} {x y : ℝ} (hx : x * (f64Scale : ℝ) = signed s y) (z : B64) :
    |(f64Value z : ℝ) - x| = |signed s (f64Units z) - y| / (f64Scale : ℝ) := by
  have hS := f64Scale_real_pos
  have hz : (f64Value z : ℝ) - x = signed s (signed s (f64Units z) - y) / (f64Scale : ℝ) := by
    rw [← signed_sub, signed_signed, ← hx, f64Value_real, sub_div, mul_div_cancel_right₀ _ hS.ne']
  rw [hz, abs_div, abs_signed, abs_of_pos hS]

/-- A rounding packed with the sign of the exact value is that value correctly rounded. -/
theorem RoundsTo.correctlyRounded_pack {y : ℝ} {q j : Nat} (h : RoundsTo y q j) {s : Bool} {x : ℝ}
    (hx : x * (f64Scale : ℝ) = signed s y) : correctlyRounded x (f64Pack s q j) := by
  have hS := f64Scale_real_pos
  have habs : |x| * (f64Scale : ℝ) = y := by
    have hx' := congrArg abs hx
    rwa [abs_mul, abs_signed, abs_of_pos hS, abs_of_nonneg h.nonneg] at hx'
  have hfin : q * 2 ^ 52 + j < 2047 * 2 ^ 52 ↔ |x| < 2 ^ 1024 - 2 ^ 970 := by
    rw [← mul_lt_mul_iff_left₀ hS, overflow_units, habs]
    exact h.below_top_iff 2044
  rcases f64Pack_cases s q j with ⟨hlt, e⟩ | ⟨hge, e⟩
  · rw [e]
    have hU := f64Units_make s h.le_top h.bottom_le hlt
    refine ⟨fun _ => ⟨hfin.1 hlt, fun z _ => ?_⟩, fun hn => ?_⟩
    · obtain ⟨hle, htie⟩ := h.nearest (onGrid_signed s (onGrid_units z q))
      rw [f64Value_dist hx, f64Value_dist hx, hU]
      refine ⟨by gcongr, fun heq hne => ?_⟩
      have hj := htie ((div_left_inj' hS.ne').1 heq) fun hw => hne ?_
      · rw [f64Make_parity s (by omega)]; omega
      · rw [← hU] at hw
        have hunits := congrArg (signed s) hw
        rw [signed_signed, signed_signed] at hunits
        rw [f64Value, f64Value, Int.cast_inj.1 hunits]
    · rw [f64IsFinite_make s hlt] at hn
      cases hn
  · rw [e]
    refine ⟨fun hf => ?_, fun _ => ?_⟩
    · rw [f64IsFinite_inf] at hf
      cases hf
    · have hbig := not_lt.1 (mt hfin.2 (not_lt.2 hge))
      refine ⟨f64IsInf_inf s, ?_, hbig⟩
      have hxpos : 0 < |x| := lt_of_lt_of_le
        (sub_pos.2 (pow_lt_pow_right₀ (by norm_num) (by decide))) hbig
      have hy : 0 < y := habs ▸ mul_pos hxpos hS
      have hneg : x * (f64Scale : ℝ) < 0 * (f64Scale : ℝ) ↔ x < 0 := mul_lt_mul_iff_left₀ hS
      rwa [zero_mul, hx, signed_lt_zero_iff s hy, ← f64Sign_inf s] at hneg

/-! ## The two roundings of the model -/

theorem f64Place_bounds {t : Nat} {y : ℝ} (h : (t : ℝ) ≤ y) (h' : y < t + 1) :
    (f64Place t = 0 ∨ 2 ^ (52 + f64Place t) ≤ y) ∧ y < 2 ^ (53 + f64Place t) := by
  constructor
  · refine or_iff_not_imp_left.2 fun hq => le_trans ?_ h
    unfold f64Place at *
    have hle : 2 ^ (52 + (Nat.log2 t - 52)) ≤ t := by
      rw [Nat.add_sub_cancel' (by omega)]
      refine Nat.log2_self_le ?_
      rintro rfl
      simp at hq
    exact_mod_cast hle
  · have hlt : t + 1 ≤ 2 ^ (53 + f64Place t) :=
      le_trans Nat.lt_log2_self (Nat.pow_le_pow_right (by decide) (by unfold f64Place; omega))
    exact h'.trans_le (by exact_mod_cast hlt)

/-- Rounding up exactly above the middle of two neighbours, and at the middle from an odd one. -/
theorem roundsTo_of_up {t : Nat} {y : ℝ} (h : (t : ℝ) ≤ y) (h' : y < t + 1) {up : Bool}
    (hup : up = true ↔ ((2 * (t / 2 ^ f64Place t) + 1) * 2 ^ f64Place t : Nat) < 2 * y ∨
      ((2 * (t / 2 ^ f64Place t) + 1) * 2 ^ f64Place t : Nat) = 2 * y ∧
        t / 2 ^ f64Place t % 2 = 1) :
    RoundsTo y (f64Place t)
      (if up then t / 2 ^ f64Place t + 1 else t / 2 ^ f64Place t) := by
  obtain ⟨hplace, hbelow⟩ := f64Place_bounds h h'
  generalize f64Place t = q at *
  have hq : 0 < 2 ^ q := Nat.two_pow_pos q
  have hlo : ((t / 2 ^ q : Nat) : ℝ) * 2 ^ q ≤ y :=
    le_trans (by exact_mod_cast Nat.div_mul_le_self t (2 ^ q)) h
  have hhi : y < (((t / 2 ^ q : Nat) : ℝ) + 1) * 2 ^ q := by
    have hlt : t < t / 2 ^ q * 2 ^ q + 2 ^ q := Nat.lt_div_mul_add hq
    rw [← Nat.succ_mul] at hlt
    exact h'.trans_le (by exact_mod_cast hlt)
  generalize t / 2 ^ q = k at *
  push_cast at hup
  have hy : 0 ≤ y := le_trans (Nat.cast_nonneg t) h
  cases up with
  | true =>
    have hc := hup.1 rfl
    have habs : |((k + 1 : Nat) : ℝ) * 2 ^ q - y| = (k + 1) * 2 ^ q - y := by
      rw [Nat.cast_add_one, abs_of_pos (by linarith)]
    refine ⟨hy, hplace, hbelow, ?_, fun he => ?_⟩
    · rw [if_pos rfl, habs]
      rcases hc with hc | ⟨hc, -⟩ <;> linarith
    · rw [if_pos rfl, habs] at he
      rcases hc with hc | ⟨-, hodd⟩
      · linarith
      · rw [if_pos rfl]; omega
  | false =>
    have hc := mt hup.2 Bool.false_ne_true
    rw [not_or] at hc
    have habs : |(k : ℝ) * 2 ^ q - y| = y - k * 2 ^ q := by
      rw [abs_sub_comm, abs_of_nonneg (by linarith)]
    refine ⟨hy, hplace, hbelow, ?_, fun he => ?_⟩
    · rw [if_neg Bool.false_ne_true, habs]
      linarith [hc.1]
    · rw [if_neg Bool.false_ne_true, habs] at he
      rw [if_neg Bool.false_ne_true]
      have hev : ¬ k % 2 = 1 := fun hodd => hc.2 ⟨by linarith, hodd⟩
      omega

/-- n / d units rounded. -/
theorem correctlyRounded_round {n d : Nat} (hd : 0 < d) {s : Bool} {x : ℝ}
    (hx : x * (f64Scale : ℝ) = signed s ((n : ℝ) / d)) : correctlyRounded x (f64Round s n d) := by
  have hdR : (0 : ℝ) < d := by exact_mod_cast hd
  have hlo : ((n / d : Nat) : ℝ) ≤ (n : ℝ) / d := Nat.cast_div_le
  have hhi : (n : ℝ) / d < (n / d : Nat) + 1 := by
    rw [div_lt_iff₀ hdR]
    exact_mod_cast Nat.lt_mul_of_div_lt (Nat.lt_succ_self (n / d)) hd
  rw [f64Round]
  refine RoundsTo.correctlyRounded_pack ?_ hx
  rw [← Nat.div_div_eq_div_mul]
  refine roundsTo_of_up hlo hhi ?_
  generalize f64Place (n / d) = q
  -- twice the remainder against the place is twice n against the middle
  have hn : d * 2 ^ q * (n / d / 2 ^ q) + n % (d * 2 ^ q) = n := by
    rw [Nat.div_div_eq_div_mul]; exact Nat.div_add_mod n (d * 2 ^ q)
  generalize n / d / 2 ^ q = k at *
  generalize n % (d * 2 ^ q) = r at *
  have hnR : (d : ℝ) * 2 ^ q * k + r = n := by exact_mod_cast hn
  have hmid : (((2 * k + 1) * 2 ^ q : Nat) : ℝ) * d = (2 * n - (2 * r - d * 2 ^ q)) := by
    rw [← hnR]; push_cast; ring
  have hlt : d * 2 ^ q < 2 * r ↔ (((2 * k + 1) * 2 ^ q : Nat) : ℝ) < 2 * ((n : ℝ) / d) := by
    rw [← mul_div_assoc, lt_div_iff₀ hdR, hmid, sub_lt_self_iff, sub_pos]
    exact_mod_cast Iff.rfl
  have heq : 2 * r = d * 2 ^ q ↔ (((2 * k + 1) * 2 ^ q : Nat) : ℝ) = 2 * ((n : ℝ) / d) := by
    rw [← mul_div_assoc, eq_div_iff hdR.ne', hmid, sub_eq_self, sub_eq_zero]
    exact_mod_cast Iff.rfl
  rw [← hlt, ← heq]
  simp

/-- The digits found so far and those to be found enclose the root. -/
theorem isqrtDigits_eq_sqrt (x : Nat) : ∀ i s : Nat, s * s ≤ x → x < (s + 2 ^ i) * (s + 2 ^ i) →
    isqrtDigits x i s = Nat.sqrt x
  | 0, s, hlo, hhi => Nat.eq_sqrt.2 ⟨hlo, hhi⟩
  | i + 1, s, hlo, hhi => by
    rw [isqrtDigits]
    split
    · next h =>
      refine isqrtDigits_eq_sqrt x i _ h ?_
      rwa [add_assoc, ← two_mul, ← pow_succ']
    · next h => exact isqrtDigits_eq_sqrt x i s hlo (not_le.1 h)

theorem isqrt_eq_sqrt (x : Nat) : isqrt x = Nat.sqrt x := by
  refine isqrtDigits_eq_sqrt x _ 0 (by simp) ?_
  rw [zero_add, ← pow_add]
  exact Nat.lt_log2_self.trans_le (Nat.pow_le_pow_right (by decide) (by omega))

/-- The square root of x units rounded. -/
theorem correctlyRounded_roundSqrt {m : Nat} {x : ℝ} (hx : x * (f64Scale : ℝ) = √(m : ℝ)) :
    correctlyRounded x (f64RoundSqrt m) := by
  rw [f64RoundSqrt, isqrt_eq_sqrt]
  have hx' : x * (f64Scale : ℝ) = signed false √(m : ℝ) := hx
  refine RoundsTo.correctlyRounded_pack ?_ hx'
  refine roundsTo_of_up Real.nat_sqrt_le_real_sqrt Real.real_sqrt_lt_nat_sqrt_succ ?_
  generalize (2 * (Nat.sqrt m / 2 ^ f64Place (Nat.sqrt m)) + 1) * 2 ^ f64Place (Nat.sqrt m) = mid
  have hsq : (2 * √(m : ℝ)) ^ 2 = (4 * m : Nat) := by
    rw [mul_pow, Real.sq_sqrt (Nat.cast_nonneg m)]; push_cast; norm_num
  have hmid0 : (0 : ℝ) ≤ mid := Nat.cast_nonneg mid
  have hmid : (mid : ℝ) ^ 2 = (mid * mid : Nat) := by rw [sq, Nat.cast_mul]
  have hlt : mid * mid < 4 * m ↔ (mid : ℝ) < 2 * √(m : ℝ) := by
    rw [← pow_lt_pow_iff_left₀ hmid0 (by positivity) two_ne_zero, hsq, hmid,
      Nat.cast_lt]
  have heq : 4 * m = mid * mid ↔ (mid : ℝ) = 2 * √(m : ℝ) := by
    rw [← pow_left_inj₀ hmid0 (by positivity) two_ne_zero, hsq, hmid, Nat.cast_inj,
      eq_comm]
  rw [← hlt, ← heq]
  simp

/-! ## The operations -/

theorem f64Units_eq_zero_of_isZero {a : B64} (h : f64IsZero a = true) : f64Units a = 0 := by
  simp [f64Units, (f64Mag_eq_zero_iff a).2 h]

theorem f64IsFinite_of_isZero {a : B64} (h : f64IsZero a = true) : f64IsFinite a = true := by
  rw [f64IsZero, decide_eq_true_iff] at h
  rw [f64IsFinite, decide_eq_true_iff, f64Exponent]
  omega

theorem f64Value_of_isZero {a : B64} (h : f64IsZero a = true) : f64Value a = 0 := by
  simp [f64Value, f64Units_eq_zero_of_isZero h]

theorem correctlyRounded_zero {r : B64} (h : f64IsZero r = true) : correctlyRounded 0 r := by
  have hv : (f64Value r : ℝ) = 0 := by rw [f64Value_of_isZero h, Rat.cast_zero]
  refine ⟨fun _ => ⟨?_, fun z _ => ?_⟩, fun hn => ?_⟩
  · rw [abs_zero]
    exact sub_pos.2 (pow_lt_pow_right₀ (by norm_num) (by decide))
  · rw [hv, sub_zero, abs_zero, sub_zero]
    refine ⟨abs_nonneg _, fun heq hne => absurd ?_ hne⟩
    rw [f64Value_of_isZero h]
    exact_mod_cast abs_eq_zero.1 heq.symm
  · rw [f64IsFinite_of_isZero h] at hn
    cases hn

theorem f64Mag_pos {a : B64} (h : f64IsZero a = false) : 0 < f64Mag a :=
  Nat.pos_of_ne_zero fun hm => by rw [(f64Mag_eq_zero_iff a).1 hm] at h; cases h

theorem f64Value_scaled (a : B64) : (f64Value a : ℝ) * (f64Scale : ℝ) = f64Units a := by
  rw [f64Value_real, div_mul_cancel₀ _ f64Scale_real_pos.ne']

/-- A finite datum is its sign and its magnitude. -/
theorem f64Value_signed (a : B64) :
    (f64Value a : ℝ) = signed (f64Sign a) ((f64Mag a : ℝ) / (f64Scale : ℝ)) := by
  rw [f64Value_real, f64Units_real, div_eq_mul_inv, signed_mul_right, ← div_eq_mul_inv]

theorem f64Value_neg (a : B64) : (f64Value (f64Neg a) : ℝ) = -f64Value a := by
  rw [f64Value_signed, f64Value_signed, f64Sign_neg, f64Mag_neg]
  cases f64Sign a <;> simp [signed]

theorem correctlyRounded_addFinite (a b : B64) :
    correctlyRounded ((f64Value a : ℝ) + f64Value b) (f64AddFinite a b) := by
  have hx : ((f64Value a : ℝ) + f64Value b) * (f64Scale : ℝ)
      = ((f64Units a + f64Units b : ℤ) : ℝ) := by
    rw [add_mul, f64Value_scaled, f64Value_scaled, Int.cast_add]
  rw [f64AddFinite]
  generalize f64Units a + f64Units b = u at *
  split
  · next hu =>
    rw [hu, Int.cast_zero] at hx
    rw [(mul_eq_zero.1 hx).resolve_right f64Scale_real_pos.ne']
    exact correctlyRounded_zero (f64IsZero_zero _)
  · refine correctlyRounded_round Nat.one_pos (hx.trans ?_)
    rw [Nat.cast_one, div_one, Nat.cast_natAbs]
    rcases lt_or_ge u 0 with hu | hu
    · simp [signed, hu, abs_of_neg]
    · simp [signed, hu.not_gt, abs_of_nonneg hu]

theorem f64AddNumber_of_finite (src : Config.NanSource) {a b : B64} (ha : f64IsFinite a = true)
    (hb : f64IsFinite b = true) : f64AddNumber src a b = f64AddFinite a b := by
  simp [f64AddNumber, f64IsInf_of_finite ha, f64IsInf_of_finite hb]

section
variable {a b : B64} (ha : f64IsFinite a = true) (hb : f64IsFinite b = true)
include ha hb

theorem correctlyRounded_add : correctlyRounded ((f64Value a : ℝ) + f64Value b) (f64Add a b) := by
  have e : f64Add a b = f64AddFinite a b := by
    simp [f64Add, f64IsNaN_of_finite ha, f64IsNaN_of_finite hb, f64AddNumber_of_finite _ ha hb]
  rw [e]
  exact correctlyRounded_addFinite a b

theorem correctlyRounded_sub : correctlyRounded ((f64Value a : ℝ) - f64Value b) (f64Sub a b) := by
  have hb' : f64IsFinite (f64Neg b) = true := by rwa [f64IsFinite_neg]
  have e : f64Sub a b = f64AddFinite a (f64Neg b) := by
    simp [f64Sub, f64IsNaN_of_finite ha, f64IsNaN_of_finite hb, f64AddNumber_of_finite _ ha hb']
  rw [e, sub_eq_add_neg, ← f64Value_neg]
  exact correctlyRounded_addFinite a (f64Neg b)

theorem correctlyRounded_mul : correctlyRounded ((f64Value a : ℝ) * f64Value b) (f64Mul a b) := by
  have e : f64Mul a b = f64Round (f64Sign a != f64Sign b) (f64Mag a * f64Mag b) f64Scale := by
    simp [f64Mul, f64IsNaN_of_finite ha, f64IsNaN_of_finite hb, f64IsInf_of_finite ha,
      f64IsInf_of_finite hb]
  rw [e]
  refine correctlyRounded_round f64Scale_pos ?_
  rw [mul_assoc, f64Value_scaled, f64Units_real, f64Value_signed, signed_mul, Nat.cast_mul,
    div_mul_eq_mul_div]

theorem correctlyRounded_div (hz : f64IsZero b = false) :
    correctlyRounded ((f64Value a : ℝ) / f64Value b) (f64Div a b) := by
  have e : f64Div a b = f64Round (f64Sign a != f64Sign b) (f64Mag a * f64Scale) (f64Mag b) := by
    simp [f64Div, f64IsNaN_of_finite ha, f64IsNaN_of_finite hb, f64IsInf_of_finite ha,
      f64IsInf_of_finite hb, hz]
  rw [e]
  refine correctlyRounded_round (f64Mag_pos hz) ?_
  have hS : (f64Scale : ℝ) ≠ 0 := f64Scale_real_pos.ne'
  rw [f64Value_real, f64Value_real, div_div_div_cancel_right₀ hS, f64Units_real, f64Units_real,
    signed_div, signed_mul_right, Nat.cast_mul, div_mul_eq_mul_div]

end

theorem correctlyRounded_sqrt {a : B64} (ha : f64IsFinite a = true)
    (h : f64IsZero a = true ∨ f64Sign a = false) :
    correctlyRounded (√(f64Value a : ℝ)) (f64Sqrt a) := by
  cases hz : f64IsZero a with
  | true =>
    have e : f64Sqrt a = a := by simp [f64Sqrt, f64IsNaN_of_finite ha, hz]
    rw [e, f64Value_of_isZero hz, Rat.cast_zero, Real.sqrt_zero]
    exact correctlyRounded_zero hz
  | false =>
    have hs : f64Sign a = false := h.resolve_left (by rw [hz]; exact Bool.false_ne_true)
    have e : f64Sqrt a = f64RoundSqrt (f64Mag a * f64Scale) := by
      simp [f64Sqrt, f64IsNaN_of_finite ha, f64IsInf_of_finite ha, hz, hs]
    rw [e]
    refine correctlyRounded_roundSqrt ?_
    have hS := f64Scale_real_pos
    have hv : (f64Value a : ℝ) = (f64Mag a * f64Scale : Nat) / (f64Scale : ℝ) ^ 2 := by
      rw [f64Value_signed, hs, Nat.cast_mul, sq, mul_div_mul_right _ _ hS.ne']
      rfl
    rw [hv, Real.sqrt_div (Nat.cast_nonneg _), Real.sqrt_sq hS.le, div_mul_cancel₀ _ hS.ne']

/-- Settles O60: each operation computes its exact result in units, and both roundings of the model pack
the nearest number of last places, ties to even. -/
theorem binaryOperationsAreCorrectlyRounded : Obligations.BinaryOperationsAreCorrectlyRounded :=
  ⟨fun _ _ ha hb => ⟨correctlyRounded_add ha hb, correctlyRounded_sub ha hb,
    correctlyRounded_mul ha hb, correctlyRounded_div ha hb⟩, fun _ => correctlyRounded_sqrt⟩

end Sys2Proof.Machine
end

section
/-!
SUPPORT. The sizes CONFIG derives (40_config.md R102), and what every command keeps of the block:
the frame of the units and the ways a command ends (10_state.md R42, R43).
-/

namespace Sys2Proof.Machine

variable {F : Type} {α : Type}

/-! ## nextPow2 -/

theorem log2CeilFuel_eq_clog : ∀ {fuel x : Nat}, x ≤ fuel → log2CeilFuel fuel x = Nat.clog 2 x
  | 0, x, h => by
    obtain rfl : x = 0 := by omega
    rfl
  | fuel + 1, x, h => by
    rw [log2CeilFuel]
    split
    · next hx => rw [Nat.clog_of_right_le_one hx]
    · next hx =>
      rw [Nat.clog_of_two_le Nat.one_lt_two (by omega), log2CeilFuel_eq_clog (by omega)]
      rfl

theorem nextPow2_eq (x : Nat) : nextPow2 x = 2 ^ Nat.clog 2 x := by
  rw [nextPow2, log2Ceil, log2CeilFuel_eq_clog le_rfl]

theorem le_nextPow2 (x : Nat) : x ≤ nextPow2 x := by
  rw [nextPow2_eq]
  exact Nat.le_pow_clog Nat.one_lt_two x

theorem nextPow2_lt {x : Nat} (h : 2 ≤ x) : nextPow2 x < 2 * x := by
  have hpos : 0 < Nat.clog 2 x := Nat.clog_pos Nat.one_lt_two h
  have hlt : 2 ^ (Nat.clog 2 x).pred < x := Nat.pow_pred_clog_lt_self Nat.one_lt_two h
  rw [nextPow2_eq, ← Nat.succ_pred_eq_of_pos hpos, pow_succ]
  omega

/-! ## What every unit keeps -/

/-- What the units keep of the block: the configuration and the inputs, every bank's length, the
output elements that extraction never writes (45_decimate_emit.md R164), and a counter below 10. -/
structure Block.Keeps (b b' : Block F) : Prop where
  configured : b'.configured = b.configured
  ablock : b'.ablock = b.ablock
  ahop : b'.ahop = b.ahop
  afs : b'.afs = b.afs
  nfft : b'.nfft = b.nfft
  alpha : b'.alpha = b.alpha
  win : b'.win = b.win
  inp : b'.inp = b.inp
  xbuf : ∀ c, (b'.xbuf.get c).length = (b.xbuf.get c).length
  spec : ∀ c, (b'.spec.get c).length = (b.spec.get c).length
  conj : ∀ c, (b'.conj.get c).length = (b.conj.get c).length
  inst : ∀ k, (b'.inst.get k).length = (b.inst.get k).length
  acc : ∀ k, (b'.acc.get k).length = (b.acc.get k).length
  out : ∀ k, (b'.out.get k).length = (b.out.get k).length
  out_dc : 2 ≤ b.fftLen → b'.out.cross[1]? = b.out.cross[1]?
  out_nyquist : b'.out.cross[b.fftLen + 1]? = b.out.cross[b.fftLen + 1]?
  out_gap0 : 4 ≤ b.fftLen → b'.out.auto0[b.fftLen / 2 - 1]? = b.out.auto0[b.fftLen / 2 - 1]?
  out_gap1 : 4 ≤ b.fftLen → b'.out.auto1[b.fftLen / 2 - 1]? = b.out.auto1[b.fftLen / 2 - 1]?
  count_lt : b.cnt.toNat < 10 → b'.cnt.toNat < 10

theorem Block.Keeps.refl (b : Block F) : b.Keeps b where
  configured := rfl
  ablock := rfl
  ahop := rfl
  afs := rfl
  nfft := rfl
  alpha := rfl
  win := rfl
  inp := rfl
  xbuf _ := rfl
  spec _ := rfl
  conj _ := rfl
  inst _ := rfl
  acc _ := rfl
  out _ := rfl
  out_dc _ := rfl
  out_nyquist := rfl
  out_gap0 _ := rfl
  out_gap1 _ := rfl
  count_lt := id

theorem Block.Keeps.fftLen {b b' : Block F} (h : b.Keeps b') : b'.fftLen = b.fftLen :=
  congrArg BitVec.toNat h.nfft

theorem Block.Keeps.blockLen {b b' : Block F} (h : b.Keeps b') : b'.blockLen = b.blockLen := by
  rw [Block.blockLen, h.ablock, Block.blockLen]

theorem Block.Keeps.trans {b b' b'' : Block F} (h : b.Keeps b') (h' : b'.Keeps b'') :
    b.Keeps b'' := by
  have hN := h.fftLen
  exact {
    configured := h'.configured.trans h.configured
    ablock := h'.ablock.trans h.ablock
    ahop := h'.ahop.trans h.ahop
    afs := h'.afs.trans h.afs
    nfft := h'.nfft.trans h.nfft
    alpha := h'.alpha.trans h.alpha
    win := h'.win.trans h.win
    inp := h'.inp.trans h.inp
    xbuf := fun c => (h'.xbuf c).trans (h.xbuf c)
    spec := fun c => (h'.spec c).trans (h.spec c)
    conj := fun c => (h'.conj c).trans (h.conj c)
    inst := fun k => (h'.inst k).trans (h.inst k)
    acc := fun k => (h'.acc k).trans (h.acc k)
    out := fun k => (h'.out k).trans (h.out k)
    out_dc := fun hn => (h'.out_dc (hN ▸ hn)).trans (h.out_dc hn)
    out_nyquist := (hN ▸ h'.out_nyquist).trans h.out_nyquist
    out_gap0 := fun hn => (hN ▸ h'.out_gap0 (hN ▸ hn)).trans (h.out_gap0 hn)
    out_gap1 := fun hn => (hN ▸ h'.out_gap1 (hN ▸ hn)).trans (h.out_gap1 hn)
    count_lt := fun hc => h'.count_lt (h.count_lt hc) }

/-! ### One bank replaced by one of its length -/

theorem PerChannel.length_get_set {p : PerChannel (List F)} {c : Channel} {l : List F}
    (h : l.length = (p.get c).length) (d : Channel) :
    ((p.set c l).get d).length = (p.get d).length := by
  by_cases hd : d = c
  · rw [hd, PerChannel.get_set_same, h]
  · rw [PerChannel.get_set_other p l hd]

theorem PerSpectrum.length_get_set {p : PerSpectrum (List F)} {k : Spectrum} {l : List F}
    (h : l.length = (p.get k).length) (j : Spectrum) :
    ((p.set k l).get j).length = (p.get j).length := by
  by_cases hj : j = k
  · rw [hj, PerSpectrum.get_set_same, h]
  · rw [PerSpectrum.get_set_other p l hj]

theorem windowRow_keeps (num : Num F) (c : Channel) (row : List F) (b : Block F) :
    b.Keeps (b.windowRow num c row) :=
  { Block.Keeps.refl b with xbuf := PerChannel.length_get_set (storeElems_length _ _) }

theorem fftEffect_keeps (p : Params F) (c : Channel) (b : Block F) : b.Keeps (fftEffect p c b) :=
  { Block.Keeps.refl b with spec := PerChannel.length_get_set (storeElems_length _ _) }

theorem conjEffect_keeps (p : Params F) (c : Channel) (b : Block F) : b.Keeps (conjEffect p c b) :=
  { Block.Keeps.refl b with conj := PerChannel.length_get_set (storeElems_length _ _) }

theorem cmulEffect_keeps (p : Params F) (k : Spectrum) (b : Block F) :
    b.Keeps (cmulEffect p k b) :=
  { Block.Keeps.refl b with inst := PerSpectrum.length_get_set (storeElems_length _ _) }

theorem smoothEffect_keeps (p : Params F) (k : Spectrum) (b : Block F) :
    b.Keeps (smoothEffect p k b) :=
  { Block.Keeps.refl b with acc := PerSpectrum.length_get_set (storeElems_length _ _) }

/-! ### TICK -/

theorem extractCross_dc_imag (num : Num F) {b : Block F} (h : 2 ≤ b.fftLen) :
    extractCross num b 1 = none := by
  rw [extractCross, if_neg (by omega), if_neg (by omega), if_neg (by omega)]

theorem extractCross_nyquist_imag (num : Num F) (b : Block F) :
    extractCross num b (b.fftLen + 1) = none := by
  rw [extractCross, if_neg (by omega), if_neg (by omega), if_neg (by omega)]

theorem extractAuto_gap (num : Num F) {b : Block F} (A : List F) (h : 4 ≤ b.fftLen) :
    extractAuto num b A (b.fftLen / 2 - 1) = none := by
  rw [extractAuto, if_neg (by omega), if_neg (by omega), if_neg (by omega)]

theorem extract_keeps (p : Params F) (b : Block F) : b.Keeps (extract p b) :=
  { Block.Keeps.refl b with
    out := fun k => by cases k <;> exact storeElems_length _ _
    out_dc := fun h => storeElems_kept _ (extractCross_dc_imag p.num h)
    out_nyquist := storeElems_kept _ (extractCross_nyquist_imag p.num b)
    out_gap0 := fun h => storeElems_kept _ (extractAuto_gap p.num _ h)
    out_gap1 := fun h => storeElems_kept _ (extractAuto_gap p.num _ h) }

theorem setCount_keeps (b : Block F) {n : BitVec 4} (v : Bool) (h : n.toNat < 10) :
    b.Keeps (b.setCount n v) :=
  { Block.Keeps.refl b with count_lt := fun _ => h }

theorem tickEffect_keeps (p : Params F) (b : Block F) : b.Keeps (tickEffect p b) := by
  rcases tickEffect_cases p b with ⟨hlt, e⟩ | ⟨_, e⟩ <;> rw [e]
  · exact setCount_keeps b false (by rw [BitVec.toNat_ofNat]; omega)
  · exact (extract_keeps p b).trans (setCount_keeps _ true (by decide))

/-! ### PROCESS -/

theorem spectralSteps_keeps (p : Params F) (b : Block F) : b.Keeps (spectralSteps p b) := by
  have hfft : b.Keeps (fftStep p b) := (fftEffect_keeps p _ b).trans (fftEffect_keeps p _ _)
  have hconj : (fftStep p b).Keeps (conjStep p (fftStep p b)) :=
    (conjEffect_keeps p _ _).trans (conjEffect_keeps p _ _)
  have hcmul : ∀ d : Block F, d.Keeps (cmulStep p d) := fun d =>
    ((cmulEffect_keeps p _ d).trans (cmulEffect_keeps p _ _)).trans (cmulEffect_keeps p _ _)
  have hsmooth : ∀ d : Block F, d.Keeps (smoothStep p d) := fun d =>
    ((smoothEffect_keeps p _ d).trans (smoothEffect_keeps p _ _)).trans (smoothEffect_keeps p _ _)
  exact ((hfft.trans hconj).trans (hcmul _)).trans (hsmooth _)

theorem winEffect_keeps {p : Params F} {c : Channel} {b b' : Block F}
    (h : winEffect p c b = .ok b') : b.Keeps b' := by
  rcases winEffect_cases p c b with ⟨row, _, e⟩ | ⟨i, _, e⟩ <;> rw [e] at h <;> cases h
  exact windowRow_keeps p.num c row b

theorem processEffect_keeps {p : Params F} {b b' : Block F} (h : processEffect p b = .ok b') :
    b.Keeps b' := by
  rcases processEffect_cases p b with ⟨row0, row1, _, _, e⟩ | ⟨c, i, _, e⟩ <;>
    rw [e] at h <;> cases h
  exact (((windowRow_keeps p.num _ _ b).trans (windowRow_keeps p.num _ _ _)).trans
    (spectralSteps_keeps p _)).trans (tickEffect_keeps p _)

/-! ## How a command ends -/

theorem Block.command_of_unconfigured {effect : Block F → Block F} {b : Block F}
    (h : b.configured = false) : b.command effect = b.raise .notConfigured := by
  simp [Block.command, h]

theorem Block.checkedCommand_of_unconfigured {bad : Block F → Bool}
    {effect : Block F → Except Fault (Block F)} {b : Block F} (h : b.configured = false) :
    b.checkedCommand bad effect = .ok (b.raise .notConfigured) := by
  simp [Block.checkedCommand, h]

/-- Everything a command other than CONFIG can do to the block: write its completion code and
nothing else, or run its units on a configured block. -/
def Block.Ended (b b' : Block F) : Prop :=
  (∃ e, b' = b.raise e) ∨ (b.configured = true ∧ ∃ d, b.Keeps d ∧ b' = d.complete)

theorem Block.ended_raise (b : Block F) (e : Completion) : b.Ended (b.raise e) := .inl ⟨e, rfl⟩

theorem Block.ended_command {effect : Block F → Block F} (b : Block F) (h : b.Keeps (effect b)) :
    b.Ended (b.command effect) := by
  rcases Block.command_cases effect b with ⟨_, e⟩ | ⟨hc, e⟩ <;> rw [e]
  · exact b.ended_raise _
  · exact .inr ⟨hc, _, h, rfl⟩

theorem Block.ended_checkedCommand {bad : Block F → Bool}
    {effect : Block F → Except Fault (Block F)} {b b' : Block F}
    (hk : ∀ d, effect b = .ok d → b.Keeps d) (h : b.checkedCommand bad effect = .ok b') :
    b.Ended b' := by
  rcases Block.checkedCommand_cases bad effect b with ⟨_, e⟩ | ⟨_, _, e⟩ | ⟨hc, _, e⟩ <;>
    rw [e] at h
  · cases h
    exact b.ended_raise _
  · cases h
    exact b.ended_raise _
  · cases hd : effect b with
    | error f => rw [hd] at h; cases h
    | ok d =>
      rw [hd] at h
      cases h
      exact .inr ⟨hc, d, hk d hd, rfl⟩

/-- A command with an operand ends IllegalCommand, or runs on what the operand names. -/
theorem Block.ended_operand {effect : α → Block F → Block F} {b : Block F} (operand : Option α)
    (h : ∀ a, b.Keeps (effect a b)) :
    b.Ended (operand.elim (b.raise .illegalCommand) fun a => b.command (effect a)) := by
  cases operand with
  | none => exact b.ended_raise _
  | some a => exact b.ended_command (h a)

theorem runFft_eq (p : Params F) (arg : BitVec 8) (b : Block F) :
    runFft p arg b =
      (channelOf arg).elim (b.raise .illegalCommand) fun c => b.command (fftEffect p c) := by
  unfold runFft
  cases channelOf arg <;> rfl

theorem runConj_eq (p : Params F) (arg : BitVec 8) (b : Block F) :
    runConj p arg b =
      (channelOf arg).elim (b.raise .illegalCommand) fun c => b.command (conjEffect p c) := by
  unfold runConj
  cases channelOf arg <;> rfl

theorem runCmul_eq (p : Params F) (arg : BitVec 8) (b : Block F) :
    runCmul p arg b =
      (spectrumOf arg).elim (b.raise .illegalCommand) fun k => b.command (cmulEffect p k) := by
  unfold runCmul
  cases spectrumOf arg <;> rfl

theorem runSmooth_eq (p : Params F) (arg : BitVec 8) (b : Block F) :
    runSmooth p arg b =
      (spectrumOf arg).elim (b.raise .illegalCommand) fun k => b.command (smoothEffect p k) := by
  unfold runSmooth
  cases spectrumOf arg <;> rfl

theorem runWin_eq (p : Params F) (arg : BitVec 8) (b : Block F) :
    runWin p arg b = (channelOf arg).elim (.ok (b.raise .illegalCommand)) fun c =>
      b.checkedCommand (Block.winInputBad c) (winEffect p c) := by
  unfold runWin
  cases channelOf arg <;> rfl

theorem runWin_ended {p : Params F} {arg : BitVec 8} {b b' : Block F}
    (h : runWin p arg b = .ok b') : b.Ended b' := by
  rw [runWin_eq] at h
  cases hc : channelOf arg with
  | none =>
    rw [hc] at h
    cases h
    exact b.ended_raise _
  | some c =>
    rw [hc] at h
    exact b.ended_checkedCommand (fun _ => winEffect_keeps) h

/-- A command that may fault and answers a next state has ended on a block. -/
theorem State.outcome_next {s t : State} {r : Except Fault (Block B64)}
    (h : s.outcome r = .next t) : ∃ b, r = .ok b ∧ t = s.withBlock b := by
  cases r with
  | ok b =>
    cases h
    exact ⟨b, rfl, rfl⟩
  | error f => cases h

/-- Everything a command other than CONFIG can do to the machine. -/
theorem exec_ended {i : Instr} {s t : State} (hi : i ≠ .config) (h : exec i s = .next t) :
    ∃ b, s.block.Ended b ∧ t = s.withBlock b := by
  cases i with
  | config => exact absurd rfl hi
  | nop =>
    cases h
    exact ⟨_, s.block.ended_raise .ok, rfl⟩
  | process =>
    obtain ⟨b, hb, rfl⟩ := State.outcome_next h
    exact ⟨b, s.block.ended_checkedCommand (fun _ => processEffect_keeps) hb, rfl⟩
  | win arg =>
    obtain ⟨b, hb, rfl⟩ := State.outcome_next h
    exact ⟨b, runWin_ended hb, rfl⟩
  | fft arg =>
    cases h
    exact ⟨_, runFft_eq params arg _ ▸ Block.ended_operand _ fun c => fftEffect_keeps _ c _, rfl⟩
  | conj arg =>
    cases h
    exact ⟨_, runConj_eq params arg _ ▸ Block.ended_operand _ fun c => conjEffect_keeps _ c _, rfl⟩
  | cmul arg =>
    cases h
    exact ⟨_, runCmul_eq params arg _ ▸ Block.ended_operand _ fun k => cmulEffect_keeps _ k _, rfl⟩
  | smooth arg =>
    cases h
    exact ⟨_, runSmooth_eq params arg _ ▸ Block.ended_operand _ fun k => smoothEffect_keeps _ k _,
      rfl⟩
  | tick =>
    cases h
    exact ⟨_, s.block.ended_command (tickEffect_keeps params _), rfl⟩

/-- Settles O44: a command other than CONFIG raises a code or runs units, which keep these. -/
theorem onlyConfigChangesTheConfiguration : Obligations.OnlyConfigChangesTheConfiguration := by
  intro i s t hi h
  obtain ⟨b, hb, rfl⟩ := exec_ended hi h
  rcases hb with ⟨e, rfl⟩ | ⟨_, d, hk, rfl⟩
  · exact ⟨rfl, rfl, rfl, rfl, rfl, rfl, rfl⟩
  · exact ⟨hk.configured, hk.ablock, hk.ahop, hk.afs, hk.nfft, hk.alpha, hk.win⟩

/-! ## The unconfigured block -/

/-- An operand that is legal names something, and an unconfigured block then refuses the command. -/
theorem Block.operand_of_unconfigured {effect : α → Block F → Block F} {b : Block F}
    {operand : Option α} (ho : operand.isSome = true) (h : b.configured = false) :
    (operand.elim (b.raise .illegalCommand) fun a => b.command (effect a))
      = b.raise .notConfigured := by
  obtain ⟨a, rfl⟩ := Option.isSome_iff_exists.1 ho
  exact Block.command_of_unconfigured h

theorem runWin_of_unconfigured {p : Params F} {arg : BitVec 8} {b : Block F}
    (ha : (channelOf arg).isSome = true) (h : b.configured = false) :
    runWin p arg b = .ok (b.raise .notConfigured) := by
  obtain ⟨c, hc⟩ := Option.isSome_iff_exists.1 ha
  rw [runWin_eq, hc]
  exact Block.checkedCommand_of_unconfigured h

/-- Settles O18: a legal operand passes the decode, and each command then tests CONFIGURED first. -/
theorem unconfiguredBlockRunsOnlyNopAndConfig :
    Obligations.UnconfiguredBlockRunsOnlyNopAndConfig := by
  intro i s hwf hnop hconfig h
  have next_raise : ∀ b, b = s.block.raise .notConfigured →
      (.next (s.withBlock b) : Host.Outcome State Fault Refusal)
        = .next { s with block := { s.block with err := .notConfigured } } := by
    rintro _ rfl
    rfl
  have channel : ∀ {arg : BitVec 8}, decide (arg.toNat < 2) = true →
      (channelOf arg).isSome = true := fun ha => (channelOf_isSome _).2 (of_decide_eq_true ha)
  have spectrum : ∀ {arg : BitVec 8}, decide (arg.toNat < 3) = true →
      (spectrumOf arg).isSome = true := fun ha => (spectrumOf_isSome _).2 (of_decide_eq_true ha)
  cases i with
  | nop => exact absurd rfl hnop
  | config => exact absurd rfl hconfig
  | process => exact congrArg s.outcome (Block.checkedCommand_of_unconfigured h)
  | win arg => exact congrArg s.outcome (runWin_of_unconfigured (channel hwf) h)
  | fft arg =>
    exact next_raise _ ((runFft_eq ..).trans (Block.operand_of_unconfigured (channel hwf) h))
  | conj arg =>
    exact next_raise _ ((runConj_eq ..).trans (Block.operand_of_unconfigured (channel hwf) h))
  | cmul arg =>
    exact next_raise _ ((runCmul_eq ..).trans (Block.operand_of_unconfigured (spectrum hwf) h))
  | smooth arg =>
    exact next_raise _ ((runSmooth_eq ..).trans (Block.operand_of_unconfigured (spectrum hwf) h))
  | tick => exact next_raise _ (Block.command_of_unconfigured h)

end Sys2Proof.Machine
end

section
/-!
SUPPORT. The invariant of the block (10_state.md R42): reset and CONFIG establish it, every other
command and every transaction of the host keeps it.
-/

namespace Sys2Proof.Machine

variable {F : Type} {p : Params F} {b b' : Block F}

/-! ## The parts of the invariant -/

theorem forall_channel {P : Channel → Prop} : (∀ c, P c) ↔ P .ch0 ∧ P .ch1 :=
  ⟨fun h => ⟨h .ch0, h .ch1⟩, fun ⟨h0, h1⟩ c => by cases c <;> assumption⟩

theorem forall_spectrum {P : Spectrum → Prop} : (∀ k, P k) ↔ P .cross ∧ P .auto0 ∧ P .auto1 :=
  ⟨fun h => ⟨h .cross, h .auto0, h .auto1⟩, fun ⟨h, h0, h1⟩ k => by cases k <;> assumption⟩

/-- The lengths of the banks, kind by kind. -/
theorem Block.lengthsAre_iff (b : Block F) (lw lx ls lo la : Nat) :
    b.lengthsAre lw lx ls lo la = true ↔
      b.win.length = lw ∧ (∀ c, (b.xbuf.get c).length = lx) ∧
      (∀ c, (b.spec.get c).length = ls) ∧ (∀ c, (b.conj.get c).length = ls) ∧
      (∀ k, (b.inst.get k).length = ls) ∧ (∀ k, (b.acc.get k).length = ls) ∧
      (b.out.get .cross).length = lo ∧ (b.out.get .auto0).length = la ∧
      (b.out.get .auto1).length = la := by
  simp only [Block.lengthsAre, Bool.and_eq_true, decide_eq_true_eq, forall_channel,
    forall_spectrum, PerChannel.get, PerSpectrum.get, and_assoc]

theorem Block.Keeps.lengthsAre (h : b.Keeps b') (lw lx ls lo la : Nat) :
    b'.lengthsAre lw lx ls lo la = b.lengthsAre lw lx ls lo la := by
  rw [Bool.eq_iff_iff, Block.lengthsAre_iff, Block.lengthsAre_iff]
  simp only [h.win, h.xbuf, h.spec, h.conj, h.inst, h.acc, h.out]

theorem Block.Keeps.sized (h : b.Keeps b') : b'.sized = b.sized := by
  simp only [Block.sized, h.lengthsAre, h.configured, h.blockLen, h.fftLen]

theorem Block.EstimatorOk.two_le_blockLen (h : b.EstimatorOk p) : 2 ≤ b.blockLen := by
  have h2 := h.block_ge_two
  unfold Block.blockLen
  omega

theorem Block.EstimatorOk.two_le_fftLen (h : b.EstimatorOk p) : 2 ≤ b.fftLen :=
  h.two_le_blockLen.trans (h.nfft_eq ▸ le_nextPow2 b.blockLen)

theorem Block.Keeps.estimatorOk (h : b.Keeps b') (ok : b.EstimatorOk p) : b'.EstimatorOk p where
  hop_positive := by rw [h.ahop]; exact ok.hop_positive
  hop_le_block := by rw [h.ahop, h.ablock]; exact ok.hop_le_block
  block_ge_two := by rw [h.ablock]; exact ok.block_ge_two
  block_le_cap := by rw [h.ablock]; exact ok.block_le_cap
  rate_finite := by rw [h.afs]; exact ok.rate_finite
  rate_positive := by rw [h.afs]; exact ok.rate_positive
  nfft_eq := by rw [h.fftLen, h.blockLen]; exact ok.nfft_eq
  alpha_eq := by rw [h.alpha, h.ablock, h.ahop, h.afs]; exact ok.alpha_eq
  win_eq := by rw [h.win, h.blockLen, h.fftLen]; exact ok.win_eq
  out_dc_imag := (h.out_dc ok.two_le_fftLen).trans ok.out_dc_imag
  out_nyquist_imag := by rw [h.fftLen]; exact h.out_nyquist.trans ok.out_nyquist_imag
  out_gap0 := by rw [h.fftLen]; exact fun hn => (h.out_gap0 hn).trans (ok.out_gap0 hn)
  out_gap1 := by rw [h.fftLen]; exact fun hn => (h.out_gap1 hn).trans (ok.out_gap1 hn)

/-! ## What keeps the invariant -/

/-- What keeps the block as the units do, and an unconfigured block's counter and flag as they are,
keeps the invariant. -/
theorem Block.Inv.of_keeps (hb : b.Inv p) (h : b.Keeps b')
    (hidle : b.configured = false → b'.cnt = b.cnt ∧ b'.outValid = b.outValid) : b'.Inv p where
  count_lt := h.count_lt hb.count_lt
  input_canonical := by rw [h.inp]; exact hb.input_canonical
  input_bounded := by rw [h.inp]; exact hb.input_bounded
  lengths := by rw [h.sized]; exact hb.lengths
  configured_ok := by rw [h.configured]; exact fun hc => h.estimatorOk (hb.configured_ok hc)
  unconfigured_ok := by
    rw [h.configured]
    intro hc
    have no := hb.unconfigured_ok hc
    obtain ⟨hcnt, hout⟩ := hidle hc
    exact ⟨hout.trans no.no_output, hcnt.trans no.count_zero, h.ablock.trans no.ablock_zero,
      h.ahop.trans no.ahop_zero, h.afs.trans no.afs_zero, h.nfft.trans no.nfft_zero,
      h.alpha.trans no.alpha_zero⟩

/-- Only the completion code differs. -/
theorem Block.Inv.raise (hb : b.Inv p) (e : Completion) : (b.raise e).Inv p :=
  hb.of_keeps { Block.Keeps.refl b with } fun _ => ⟨rfl, rfl⟩

theorem Block.Inv.complete (hb : b.Inv p) : b.complete.Inv p := hb.raise .ok

theorem Block.Inv.ended (hb : b.Inv p) (h : b.Ended b') : b'.Inv p := by
  rcases h with ⟨e, rfl⟩ | ⟨hc, d, hk, rfl⟩
  · exact hb.raise e
  · exact (hb.of_keeps hk fun h => absurd hc (h ▸ Bool.false_ne_true)).complete

theorem Block.writeReg_keeps {r : Reg} {v : Value F} (h : b.writeReg r v = some b') :
    b.Keeps b' ∧ b'.cnt = b.cnt ∧ b'.outValid = b.outValid := by
  cases v with
  | word w => cases r <;> cases h <;> exact ⟨{ Block.Keeps.refl b with }, rfl, rfl⟩
  | num x =>
    cases r <;> cases h
    exact ⟨{ Block.Keeps.refl b with }, rfl, rfl⟩

theorem Block.Inv.writeReg (hb : b.Inv p) {r : Reg} {v : Value F} (h : b.writeReg r v = some b') :
    b'.Inv p :=
  let ⟨hk, hidle⟩ := Block.writeReg_keeps h
  hb.of_keeps hk fun _ => hidle

theorem Block.writeElem_some {bank : Bank} {i : Nat} {v : Value F}
    (h : b.writeElem p bank i v = some b') :
    ∃ c x, i < p.inCap ∧ b' = { b with inp := b.inp.set c (memWrite (b.inp.get c) i x) } := by
  cases v with
  | word w => cases h
  | num x =>
    cases bank with
    | inp c =>
      rw [Block.writeElem, Option.ite_none_right_eq_some] at h
      obtain ⟨hi, e⟩ := h
      cases e
      exact ⟨c, x, hi, rfl⟩
    | _ => cases h

theorem Block.Inv.writeElem (hb : b.Inv p) {bank : Bank} {i : Nat} {v : Value F}
    (h : b.writeElem p bank i v = some b') : b'.Inv p := by
  obtain ⟨c, x, hi, rfl⟩ := Block.writeElem_some h
  refine { hb with
    input_canonical := fun d => ?_
    input_bounded := fun d e he => ?_
    configured_ok := fun hc => { hb.configured_ok hc with }
    unconfigured_ok := fun hc => { hb.unconfigured_ok hc with } }
  · by_cases hd : d = c
    · rw [hd, PerChannel.get_set_same]
      exact Memory.wf_memWrite i x (hb.input_canonical c)
    · rw [PerChannel.get_set_other _ _ hd]
      exact hb.input_canonical d
  · by_cases hd : d = c
    · rw [hd, PerChannel.get_set_same] at he
      rcases mem_memWrite he with rfl | he
      · exact hi
      · exact hb.input_bounded c e he
    · rw [PerChannel.get_set_other _ _ hd] at he
      exact hb.input_bounded d e he

/-! ## What establishes the invariant -/

/-- The input memory of the invariant, on its own. -/
def Block.InputOk (p : Params F) (b : Block F) : Prop :=
  (∀ c, Memory.wf (b.inp.get c) = true) ∧ ∀ c, ∀ e ∈ b.inp.get c, e.1 < p.inCap

theorem Block.Inv.inputOk (hb : b.Inv p) : b.InputOk p := ⟨hb.input_canonical, hb.input_bounded⟩

theorem Block.InputOk.destroy_inv (h : b.InputOk p) : (b.destroy p.num.zero).Inv p where
  count_lt := show (0#4).toNat < 10 by decide
  input_canonical := h.1
  input_bounded := h.2
  lengths := rfl
  configured_ok := fun hc => by cases hc
  unconfigured_ok := fun _ => ⟨rfl, rfl, rfl, rfl, rfl, rfl, rfl⟩

/-- A block after reset is one whose estimator is destroyed. -/
theorem reset_inv (p : Params F) : (Block.reset p.num.zero).Inv p :=
  Block.InputOk.destroy_inv (b := Block.reset p.num.zero)
    ⟨reset_input_wf _, fun c e he => by cases c <;> cases he⟩

/-- The checks of CONFIG, passed (40_config.md R103, R104). -/
theorem Block.config_accepted (hv : b.configInvalid p.num = false)
    (hc : b.overCapacity p.log2NfftMax = false) :
    0 < b.hopsize.toInt ∧ b.hopsize.toInt ≤ b.blocksize.toInt ∧ 2 ≤ b.blocksize.toInt ∧
    b.blocksize.toInt ≤ (p.inCap : Int) ∧ p.num.isFinite b.samplerate = true ∧
    p.num.le0 b.samplerate = false := by
  simp only [Block.configInvalid, Block.overCapacity, Bool.or_eq_false_iff, decide_eq_false_iff_not,
    not_le, not_lt, Bool.not_eq_false', gt_iff_lt] at hv hc
  obtain ⟨⟨⟨⟨_, hhop⟩, hle⟩, hfin⟩, hpos⟩ := hv
  exact ⟨hhop, hle, hc.1, hc.2, hfin, hpos⟩

/-- N fits the register NFFT, since it is below 2B and B is an i32. -/
theorem Block.construct_fftLen (p : Params F) (h : 2 ≤ b.blocksize.toInt) :
    (b.construct p).fftLen = nextPow2 b.blocksize.toInt.toNat := by
  have hlt := nextPow2_lt (x := b.blocksize.toInt.toNat) (by omega)
  have hi32 : 2 * b.blocksize.toInt < 2 ^ 32 := BitVec.two_mul_toInt_lt
  exact (BitVec.toNat_ofNat ..).trans (Nat.mod_eq_of_lt (by omega))

/-- The estimator of an accepted configuration (40_config.md R108). -/
theorem Block.InputOk.construct_inv (h : b.InputOk p) (hcnt : b.cnt.toNat < 10)
    (hv : b.configInvalid p.num = false) (hc : b.overCapacity p.log2NfftMax = false) :
    (b.construct p).Inv p := by
  obtain ⟨hhop, hle, htwo, hcap, hfin, hpos⟩ := Block.config_accepted hv hc
  have hN := Block.construct_fftLen (b := b) p htwo
  have hB : (b.construct p).blockLen = b.blocksize.toInt.toNat := rfl
  have hzero : ∀ {n i : Nat}, i < n → (List.replicate n p.num.zero)[i]? = some p.num.zero :=
    fun hi => by rw [List.getElem?_replicate, if_pos hi]
  exact {
    count_lt := hcnt
    input_canonical := h.1
    input_bounded := h.2
    lengths := by
      have hconf : (b.construct p).configured = true := rfl
      rw [Block.sized, if_pos hconf, Block.lengthsAre_iff, hN, hB]
      simp only [Block.construct, forall_channel, forall_spectrum, PerChannel.get, PerSpectrum.get,
        List.length_replicate, firstElems_length, and_self]
    configured_ok := fun _ =>
      { hop_positive := hhop
        hop_le_block := hle
        block_ge_two := htwo
        block_le_cap := hcap
        rate_finite := hfin
        rate_positive := hpos
        nfft_eq := hN
        alpha_eq := rfl
        win_eq := by rw [hN]; rfl
        out_dc_imag := hzero (by omega)
        out_nyquist_imag := by rw [hN]; exact hzero (by omega)
        out_gap0 := by rw [hN]; exact fun _ => hzero (by omega)
        out_gap1 := by rw [hN]; exact fun _ => hzero (by omega) }
    unconfigured_ok := fun hn => by cases hn }

theorem Block.Inv.runConfig (hb : b.Inv p) : (runConfig p b).Inv p := by
  have hd : (b.destroy p.num.zero).Inv p := hb.inputOk.destroy_inv
  rcases runConfig_cases p b with ⟨_, e⟩ | ⟨_, _, e⟩ | ⟨hv, hc, e⟩ <;> rw [e]
  · exact hd.raise _
  · exact hd.raise _
  · exact (hd.inputOk.construct_inv hd.count_lt hv hc).complete

/-! ## The machine -/

/-- Settles O38: the reset block has no estimator and no input. -/
theorem resetMeetsTheInvariant : Obligations.ResetMeetsTheInvariant := reset_inv params

section
variable {s t : State}

theorem State.Inv.exec (hs : s.Inv) {i : Instr} (h : exec i s = .next t) : t.Inv := by
  by_cases hi : i = .config
  · subst hi
    cases h
    exact Block.Inv.runConfig hs
  · obtain ⟨b, hb, rfl⟩ := exec_ended hi h
    exact Block.Inv.ended hs hb

theorem State.commandEnded_next {o : Host.Outcome State Fault Refusal}
    (h : State.commandEnded o = .next t) : ∃ u, o = .next u ∧ t = u.respond .ok := by
  cases o with
  | next u =>
    cases h
    exact ⟨u, rfl, rfl⟩
  | fault f => cases h
  | refused r => cases h

theorem State.Inv.writeCmd (hs : s.Inv) {w : W32} (h : s.writeCmd w = .next t) : t.Inv := by
  unfold State.writeCmd at h
  split at h
  · obtain ⟨u, hu, rfl⟩ := State.commandEnded_next h
    exact State.Inv.exec (t := u) hs hu
  · cases h
    exact Block.Inv.raise hs _

theorem State.answer_block (s : State) (o : Option (Value B64)) : (s.answer o).block = s.block := by
  cases o <;> rfl

theorem State.Inv.answer (hs : s.Inv) (o : Option (Value B64)) : (s.answer o).Inv := by
  rw [State.Inv, State.answer_block]
  exact hs

theorem State.Inv.store (hs : s.Inv) {o : Option (Block B64)}
    (ho : ∀ b, o = some b → b.Inv params) : (s.store o).Inv := by
  cases o with
  | none => exact hs
  | some b => exact ho b rfl

/-- A RegWrite runs the word written to CMD, or stores in another register. -/
theorem State.regWrite_cases (s : State) (r : Reg) (v : Value B64) :
    (∃ w, s.regWrite r v = s.writeCmd w) ∨
    s.regWrite r v = .next (s.store (s.block.writeReg r v)) := by
  cases v with
  | num x => cases r <;> exact .inr rfl
  | word w =>
    cases r with
    | cmd => exact .inl ⟨w, rfl⟩
    | _ => exact .inr rfl

theorem State.Inv.regWrite (hs : s.Inv) {r : Reg} {v : Value B64} (h : s.regWrite r v = .next t) :
    t.Inv := by
  rcases s.regWrite_cases r v with ⟨w, e⟩ | e <;> rw [e] at h
  · exact hs.writeCmd h
  · cases h
    exact hs.store fun b hb => Block.Inv.writeReg hs hb

theorem State.Inv.takeEvent (hs : s.Inv) {e : HostEvent B64} (h : s.takeEvent e = .next t) :
    t.Inv := by
  cases e with
  | regRead n =>
    cases h
    exact hs.answer _
  | regWrite n v =>
    simp only [State.takeEvent] at h
    split at h
    · cases h
      exact hs
    · exact hs.regWrite h
  | memRead n i =>
    cases h
    exact hs.answer _
  | memWrite n i v =>
    cases h
    refine hs.store fun b hb => ?_
    obtain ⟨bank, _, hw⟩ := Option.bind_eq_some_iff.1 hb
    exact Block.Inv.writeElem hs hw
  | reset =>
    cases h
    exact reset_inv params

/-- Settles O39: the step takes one event, and each kind of event keeps the invariant. -/
theorem everyStepKeepsTheInvariant : Obligations.EveryStepKeepsTheInvariant := by
  intro s t hs h
  unfold step State.takeNext at h
  split at h
  · cases h
    exact hs
  · next e rest _ => exact State.Inv.takeEvent (s := { s with pending := rest }) hs h

end

/-- Settles O40: N is nextPow2 of B, and the limit on B is the default. -/
theorem configuredSizesAreInRange : Obligations.ConfiguredSizesAreInRange := by
  intro s hs hc
  have ok := hs.configured_ok hc
  have htwo := ok.two_le_blockLen
  have hlt := nextPow2_lt htwo
  have hle := le_nextPow2 s.block.blockLen
  have hcap : s.block.ablock.toInt ≤ 65536 := ok.block_le_cap
  have hB : (s.block.blockLen : Int) = s.block.ablock.toInt :=
    Int.toNat_of_nonneg (by linarith [ok.block_ge_two])
  have hN : s.block.nfft.toNat = nextPow2 s.block.blockLen := ok.nfft_eq
  refine ⟨⟨Nat.clog 2 s.block.blockLen, Nat.clog_pos Nat.one_lt_two htwo, ?_, ?_⟩, ?_, ?_,
    ok.hop_positive, ok.hop_le_block, hcap⟩
  · exact Nat.clog_le_of_le_pow (by omega)
  · rw [hN, nextPow2_eq]
  · omega
  · omega

end Sys2Proof.Machine
end

section
/-!
SUPPORT. The word the host writes to CMD and the word it reads from STATUS (30_encoding.md R82,
10_state.md R26, R27).
-/

namespace Sys2Proof.Machine

/-! ## The word of a command -/

theorem decodeFmt1_of_lt {arg : BitVec 8} (mk : BitVec 8 → Instr) (h : arg.toNat < 2) :
    decodeFmt1 arg mk = .ok (mk arg) := if_pos h

theorem decodeFmt2_of_lt {arg : BitVec 8} (mk : BitVec 8 → Instr) (h : arg.toNat < 3) :
    decodeFmt2 arg mk = .ok (mk arg) := if_pos h

theorem decodeOp_opcode {i : Instr} (h : i.wellFormed = true) :
    decodeOp i.opcode i.argument = .ok i := by
  cases i with
  | nop | config | process | tick => rfl
  | win arg => exact decodeFmt1_of_lt .win (of_decide_eq_true h)
  | fft arg => exact decodeFmt1_of_lt .fft (of_decide_eq_true h)
  | conj arg => exact decodeFmt1_of_lt .conj (of_decide_eq_true h)
  | cmul arg => exact decodeFmt2_of_lt .cmul (of_decide_eq_true h)
  | smooth arg => exact decodeFmt2_of_lt .smooth (of_decide_eq_true h)

theorem decode_encode {i : Instr} (h : i.wellFormed = true) : decode (encode i) = .ok i := by
  obtain ⟨hop, harg, hzero⟩ := Laws.EncodedFields.fields_of_parts i.argument i.opcode
  rw [decode, encode, hop, harg, hzero, if_neg (not_not_intro rfl), decodeOp_opcode h]

theorem State.writeCmd_encode (s : State) {i : Instr} (h : i.wellFormed = true) :
    s.writeCmd (encode i) = State.commandEnded (exec i s) := by
  rw [State.writeCmd, decode_encode h]

/-- Settles O7: the word placed is the command's, and its fields decode back to the command. -/
theorem placedWordRunsNext : Obligations.PlacedWordRunsNext := by
  intro s i hwf
  have hw : BitVec.ofNat 32 ((encode i).toNat % 2 ^ 32) = encode i := by
    rw [Nat.mod_eq_of_lt (encode i).isLt, BitVec.ofNat_toNat, BitVec.setWidth_eq]
  have hstep : step (s.withFetchWord 32 (encode i).toNat) = s.writeCmd (encode i) := by
    rw [State.withFetchWord, hw]
    rfl
  rw [hstep, s.writeCmd_encode hwf]
  cases exec i s <;> rfl

/-! ## STATUS -/

/-- Two parts put together, as numbers. -/
theorem toNat_append_eq {m n : Nat} (x : BitVec m) (y : BitVec n) :
    (x ++ y).toNat = x.toNat * 2 ^ n + y.toNat := by
  rw [BitVec.toNat_append, ← Nat.shiftLeft_add_eq_or_of_lt y.isLt, Nat.shiftLeft_eq]

theorem Block.statusWord_toNat {F : Type} (b : Block F) :
    b.statusWord.toNat = b.configured.toNat + 2 * b.outValid.toNat
      + 16 * (completionCode b.err).toNat + 256 * b.cnt.toNat := by
  simp only [Block.statusWord, toNat_append_eq, BitVec.toNat_ofBool,
    BitVec.toNat_ofNat]
  omega

/-- Settles O9: the parts of STATUS as numbers, each below the place of the next. -/
theorem statusReadsItsFieldsAndZeros : Obligations.StatusReadsItsFieldsAndZeros := by
  intro s rest h
  have hw := s.block.statusWord_toNat
  have hconf := s.block.configured.toNat_lt
  have hout := s.block.outValid.toNat_lt
  have herr := (completionCode s.block.err).isLt
  refine ⟨s.block.statusWord, ?_, hw, ?_, ?_⟩
  · rw [step, State.takeNext, h]
    rfl
  · have hbit : s.block.statusWord.toNat / 2 % 2 = s.block.outValid.toNat := by omega
    rw [hbit, Block.outValidPin, Bool.toNat_eq_one]
  · have hcode : s.block.statusWord.toNat / 16 % 16 = (completionCode s.block.err).toNat := by omega
    rw [hcode, Block.errPin, decide_eq_true_iff, ne_eq, ne_eq, BitVec.toNat_eq]
    rfl

end Sys2Proof.Machine
end

section
/-!
SUPPORT. The alpha of NUM_B64 (40_config.md R105): the operations it is built from keep the sign bit
clear up to the negation, and exp of what follows lies in [0, 1].
-/

namespace Sys2Proof.Machine

open Sys2Proof.Claims
open Sys2Proof.Config (NanSource)

/-! ## Numbers without a sign -/

/-- A datum that is not a NaN and whose sign bit is clear: +0, a positive number or +infinity. -/
structure F64Unsigned (x : B64) : Prop where
  number : f64IsNaN x = false
  plus : f64Sign x = false

theorem f64IsNaN_inf (s : Bool) : f64IsNaN (f64Inf s) = false := by cases s <;> decide

theorem f64Unsigned_inf : F64Unsigned (f64Inf false) := ⟨f64IsNaN_inf false, f64Sign_inf false⟩

theorem f64Unsigned_make {m : Nat} (h : m < 2047 * 2 ^ 52) : F64Unsigned (f64Make false m) :=
  ⟨f64IsNaN_of_finite (f64IsFinite_make false h), f64Sign_make false (by omega)⟩

theorem f64Unsigned_pack (q k : Nat) : F64Unsigned (f64Pack false q k) := by
  rcases f64Pack_cases false q k with ⟨hlt, e⟩ | ⟨_, e⟩ <;> rw [e]
  · exact f64Unsigned_make hlt
  · exact f64Unsigned_inf

theorem f64Unsigned_round (n d : Nat) : F64Unsigned (f64Round false n d) := f64Unsigned_pack _ _

theorem f64IsZero_round_zero (d : Nat) : f64IsZero (f64Round false 0 d) = true := by
  simp [f64Round, f64Place, f64Pack, f64IsZero, f64Make]

theorem f64IsNaN_nan (src : NanSource) (a b : B64) : f64IsNaN (f64NaN src a b) = true := by
  have hp : ((Config.nanBits src a b).extractLsb' 0 51).toNat < 2 ^ 51 := BitVec.isLt _
  have hbits : (f64NaN src a b).toNat = (((Config.nanBits src a b).extractLsb' 51 1).toNat * 2 ^ 12
      + 0xFFF) * 2 ^ 51 + ((Config.nanBits src a b).extractLsb' 0 51).toNat := by
    rw [f64NaN, toNat_append_eq, toNat_append_eq]
    rfl
  have he : f64Exponent (f64NaN src a b) = 2047 := by
    rw [f64Exponent, hbits]
    omega
  have hf : f64Fraction (f64NaN src a b) ≠ 0 := by
    rw [f64Fraction, hbits]
    omega
  simp [f64IsNaN, he, hf]

theorem f64IsNaN_of_inf {a : B64} (h : f64IsInf a = true) : f64IsNaN a = false := by
  simp only [f64IsInf, Bool.and_eq_true, decide_eq_true_eq] at h
  simp [f64IsNaN, h.2]

theorem f64IsNaN_neg (a : B64) : f64IsNaN (f64Neg a) = f64IsNaN a := by simp [f64IsNaN]

theorem f64IsInf_neg (a : B64) : f64IsInf (f64Neg a) = f64IsInf a := by simp [f64IsInf]

theorem f64IsZero_neg (a : B64) : f64IsZero (f64Neg a) = f64IsZero a := by
  rw [Bool.eq_iff_iff, ← f64Mag_eq_zero_iff, ← f64Mag_eq_zero_iff, f64Mag_neg]

/-! ## The operands of exp -/

/-- The rate's eighth. -/
theorem f64Unsigned_mul_eighth {fs : B64} (hfin : f64IsFinite fs = true)
    (hpos : f64Le0 fs = false) : F64Unsigned (f64Mul fs f64Eighth) := by
  have hs : f64Sign fs = false := by
    simp [f64Le0, f64IsNaN_of_finite hfin] at hpos
    exact hpos.2
  have he : f64IsFinite f64Eighth = true ∧ f64Sign f64Eighth = false := by decide
  have e : f64Mul fs f64Eighth = f64Round false (f64Mag fs * f64Mag f64Eighth) f64Scale := by
    simp [f64Mul, f64IsNaN_of_finite hfin, f64IsNaN_of_finite he.1, f64IsInf_of_finite hfin,
      f64IsInf_of_finite he.1, hs, he.2]
  rw [e]
  exact f64Unsigned_round _ _

theorem f64OfInt_of_nonneg {n : Int} (h : 0 ≤ n) :
    f64OfInt n = f64Round false (n.natAbs * f64Scale) 1 := by
  rw [f64OfInt, decide_eq_false h.not_gt]

theorem f64Unsigned_ofInt {n : Int} (h : 0 ≤ n) : F64Unsigned (f64OfInt n) := by
  rw [f64OfInt_of_nonneg h]
  exact f64Unsigned_round _ _

theorem f64IsZero_ofInt_zero : f64IsZero (f64OfInt 0) = true := by
  rw [f64OfInt_of_nonneg le_rfl, Int.natAbs_zero, zero_mul]
  exact f64IsZero_round_zero 1

theorem f64OfInt_correctlyRounded {n : Int} (h : 0 ≤ n) :
    correctlyRounded (n : ℝ) (f64OfInt n) := by
  rw [f64OfInt_of_nonneg h]
  refine correctlyRounded_round Nat.one_pos ?_
  have habs : ((n.natAbs : Nat) : ℝ) = n := by rw [Nat.cast_natAbs, abs_of_nonneg h]
  rw [Nat.cast_one, div_one, Nat.cast_mul, habs]
  rfl

theorem f64IsFinite_ofInt {n : Int} (h : 0 ≤ n) (hlt : n < 2 ^ 31) :
    f64IsFinite (f64OfInt n) = true := by
  by_contra hinf
  have hbig := ((f64OfInt_correctlyRounded h).2 (Bool.eq_false_of_not_eq_true hinf)).2.2
  have hn : |(n : ℝ)| < 2 ^ 31 := by
    rw [abs_of_nonneg (by exact_mod_cast h)]
    exact_mod_cast hlt
  have h1024 : (2 : ℝ) ^ 1024 = 2 ^ 970 * 2 ^ 54 := by rw [← pow_add]
  have h970 : (1 : ℝ) ≤ 2 ^ 970 := one_le_pow₀ (by norm_num)
  rw [h1024] at hbig
  generalize (2 : ℝ) ^ 970 = u at hbig h970
  norm_num at hbig hn
  linarith

/-- An overlap of at least one sample does not round to zero: 1 is nearer than 0. -/
theorem f64IsZero_ofInt {n : Int} (h : 0 < n) : f64IsZero (f64OfInt n) = false := by
  by_contra hz
  have hz := Bool.eq_true_of_not_eq_false hz
  obtain ⟨_, hnear⟩ := (f64OfInt_correctlyRounded h.le).1 (f64IsFinite_of_isZero hz)
  have hle := (hnear f64One (by decide)).1
  have hone : (f64Value f64One : ℝ) = 1 := by
    have : f64Value f64One = 1 := by decide +kernel
    rw [this, Rat.cast_one]
  have hn : (1 : ℝ) ≤ n := by exact_mod_cast h
  rw [f64Value_of_isZero hz, Rat.cast_zero, zero_sub, abs_neg, abs_of_pos (by linarith), hone,
    abs_of_nonpos (by linarith)] at hle
  linarith

/-- A quotient of numbers without a sign is one, but for 0/0 and the quotient of infinities. -/
theorem f64Unsigned_div {a b : B64} (ha : F64Unsigned a) (hfin : f64IsFinite a = true)
    (hb : F64Unsigned b) (h : f64IsZero b = false ∨ f64IsZero a = false) :
    F64Unsigned (f64Div a b) := by
  have hinf := f64IsInf_of_finite hfin
  have e : f64Div a b = if f64IsInf b then f64Zero false else if f64IsZero b then f64Inf false
      else f64Round false (f64Mag a * f64Scale) (f64Mag b) := by
    rcases h with h | h <;> simp [f64Div, ha.number, hb.number, ha.plus, hb.plus, hinf, h]
  rw [e]
  split_ifs
  · exact f64Unsigned_make (by decide)
  · exact f64Unsigned_inf
  · exact f64Unsigned_round _ _

/-- Zero divided by zero has no value. -/
theorem f64IsNaN_div_zero {a b : B64} (ha : f64IsZero a = true) (hb : f64IsZero b = true) :
    f64IsNaN (f64Div a b) = true := by
  have hfa := f64IsFinite_of_isZero ha
  have hfb := f64IsFinite_of_isZero hb
  have e : f64Div a b = f64NaN .div a b := by
    simp [f64Div, f64IsNaN_of_finite hfa, f64IsNaN_of_finite hfb, f64IsInf_of_finite hfa,
      f64IsInf_of_finite hfb, ha, hb]
  rw [e]
  exact f64IsNaN_nan _ _ _

/-- Zero divided by anything else is zero. -/
theorem f64IsZero_div {a b : B64} (ha : F64Unsigned a) (hza : f64IsZero a = true)
    (hb : F64Unsigned b) (hzb : f64IsZero b = false) : f64IsZero (f64Div a b) = true := by
  have hinf := f64IsInf_of_finite (f64IsFinite_of_isZero hza)
  have e : f64Div a b = if f64IsInf b then f64Zero false else f64Round false 0 (f64Mag b) := by
    simp [f64Div, ha.number, hb.number, ha.plus, hb.plus, hinf, hzb, (f64Mag_eq_zero_iff a).2 hza]
  rw [e]
  split_ifs
  · exact f64IsZero_zero false
  · exact f64IsZero_round_zero _

/-! ## exp of a number whose sign is turned -/

/-- A finite datum of [0, 1] with its sign bit clear. -/
structure F64InUnit (x : B64) : Prop where
  finite : f64IsFinite x = true
  plus : f64Sign x = false
  nonneg : 0 ≤ f64Value x
  le_one : f64Value x ≤ 1

theorem two_pow_le_f64Scale {e : Nat} (h : e ≤ 1074) : 2 ^ e ≤ f64Scale := by
  have general : ∀ n, f64Scale = 2 ^ n → e ≤ n → 2 ^ e ≤ f64Scale := fun n hn he => by
    rw [hn]
    exact Nat.pow_le_pow_right (by decide) he
  exact general 1074 f64Scale_eq h

/-- The data up to 1 are those with bits up to those of 1. -/
theorem f64Mag_make_le {m : Nat} (h : m ≤ f64One.toNat) : f64Mag (f64Make false m) ≤ f64Scale := by
  have hm : m ≤ 1023 * 2 ^ 52 := h
  rw [f64Mag, f64Exponent_make false (by omega), f64Fraction_make false (by omega)]
  have hf : m % 2 ^ 52 < 2 ^ 52 := Nat.mod_lt _ (by decide)
  split_ifs with h0
  · exact hf.le.trans (two_pow_le_f64Scale (by decide))
  · rcases Nat.lt_or_ge (m / 2 ^ 52) 1023 with hlt | hge
    · calc (2 ^ 52 + m % 2 ^ 52) * 2 ^ (m / 2 ^ 52 - 1)
          ≤ 2 ^ 53 * 2 ^ 1021 :=
            Nat.mul_le_mul (by omega) (Nat.pow_le_pow_right (by decide) (by omega))
        _ = 2 ^ (53 + 1021) := (pow_add ..).symm
        _ ≤ f64Scale := two_pow_le_f64Scale (by decide)
    · have he : m / 2 ^ 52 = 1023 := by omega
      have hz : m % 2 ^ 52 = 0 := by omega
      rw [he, hz, add_zero, ← pow_add]
      exact two_pow_le_f64Scale (by decide)

theorem f64InUnit_make {m : Nat} (h : m ≤ f64One.toNat) : F64InUnit (f64Make false m) := by
  have hm : m ≤ 1023 * 2 ^ 52 := h
  have hs : f64Sign (f64Make false m) = false := f64Sign_make false (by omega)
  have hv : (f64Value (f64Make false m) : ℝ) = f64Mag (f64Make false m) / (f64Scale : ℝ) := by
    rw [f64Value_signed, hs]
    rfl
  refine ⟨f64IsFinite_make false (by omega), hs, ?_, ?_⟩ <;> rw [← Rat.cast_le (K := ℝ), hv]
  · rw [Rat.cast_zero]
    exact div_nonneg (Nat.cast_nonneg _) f64Scale_real_pos.le
  · rw [Rat.cast_one, div_le_one f64Scale_real_pos]
    exact_mod_cast f64Mag_make_le h

theorem f64One_eq_make : f64One = f64Make false f64One.toNat := by decide

theorem f64InUnit_one : F64InUnit f64One := f64One_eq_make ▸ f64InUnit_make le_rfl

theorem f64InUnit_zero : F64InUnit (f64Zero false) := f64InUnit_make (Nat.zero_le _)

section
variable {q : B64}

theorem f64Exp_nan (h : f64IsNaN q = true) : f64IsNaN (f64Exp q) = true := by
  rw [f64Exp, if_pos h]
  exact f64IsNaN_nan _ _ _

theorem f64Exp_zero (h : f64IsZero q = true) : f64Exp q = f64One := by
  simp [f64Exp, f64IsNaN_of_finite (f64IsFinite_of_isZero h), h]

/-- Everything exp can do below zero (10_state.md R24, 40_config.md R105). -/
theorem f64Exp_neg (h : F64Unsigned q) (hz : f64IsZero q = false) :
    f64Exp (f64Neg q) = if f64IsInf q || decide (7452 * f64Scale < 10 * f64Mag q) then f64Zero false
      else f64Nudge (Config.expLastPlaces (f64Neg q)) f64One.toNat (f64ExpNearest (f64Neg q)) := by
  simp only [f64Exp, f64IsNaN_neg, h.number, f64IsZero_neg, hz, f64Sign_neg, h.plus, f64IsInf_neg,
    f64Mag_neg, Bool.not_false, if_true, Bool.false_eq_true, if_false]

theorem f64Sign_expNearest_neg (h : F64Unsigned q) :
    f64Sign (f64ExpNearest (f64Neg q)) = false := by
  rw [f64ExpNearest, f64Sign_neg, h.plus, if_pos Bool.not_false]
  exact (f64Unsigned_round _ _).plus

theorem f64InUnit_exp_neg (h : F64Unsigned q) : F64InUnit (f64Exp (f64Neg q)) := by
  cases hz : f64IsZero q with
  | true =>
    rw [f64Exp_zero ((f64IsZero_neg q).trans hz)]
    exact f64InUnit_one
  | false =>
    rw [f64Exp_neg h hz]
    split_ifs
    · exact f64InUnit_zero
    · rw [f64Nudge, f64Sign_expNearest_neg h]
      exact f64InUnit_make (Nat.min_le_right _ _)

/-- A value above 745.2 as a number of units. -/
theorem f64Mag_gt_of_value (h : F64Unsigned q) (hv : 7452 / 10 < f64Value q) :
    7452 * f64Scale < 10 * f64Mag q := by
  have hR : ((7452 / 10 : ℚ) : ℝ) < f64Value q := Rat.cast_lt.2 hv
  rw [f64Value_signed, h.plus] at hR
  have hR' : ((7452 / 10 : ℚ) : ℝ) < f64Mag q / (f64Scale : ℝ) := hR
  rw [lt_div_iff₀ f64Scale_real_pos] at hR'
  push_cast at hR'
  have : (7452 * f64Scale : ℝ) < 10 * f64Mag q := by linarith
  exact_mod_cast this

theorem f64Exp_neg_underflow (h : F64Unsigned q)
    (hq : f64IsInf q = true ∨ 7452 / 10 < f64Value q) : f64Exp (f64Neg q) = f64Zero false := by
  have hz : f64IsZero q = false := by
    by_contra hz
    have hz := Bool.eq_true_of_not_eq_false hz
    rcases hq with hinf | hv
    · rw [f64IsInf_of_finite (f64IsFinite_of_isZero hz)] at hinf
      cases hinf
    · rw [f64Value_of_isZero hz] at hv
      norm_num at hv
  rw [f64Exp_neg h hz, if_pos]
  rcases hq with hinf | hv
  · rw [hinf, Bool.true_or]
  · rw [decide_eq_true (f64Mag_gt_of_value h hv), Bool.or_true]

end

/-! ## alpha -/

theorem alphaOf_numB64 (b h : Int) (fs : B64) :
    alphaOf numB64 b h fs = f64Exp (f64Neg (f64Div (f64OfInt (b - h)) (f64Mul fs f64Eighth))) := rfl

/-- An argument whose nearest exp is x, however the last places fall. -/
theorem alphaOf_close {b h : Int} {fs q x : B64} {v : ℚ}
    (hq : f64Div (f64OfInt (b - h)) (f64Mul fs f64Eighth) = q) (hplus : F64Unsigned q)
    (hz : f64IsZero q = false) (hinf : f64IsInf q = false)
    (hmag : ¬7452 * f64Scale < 10 * f64Mag q) (hx : f64ExpNearest (f64Neg q) = x)
    (hv : ∀ d, |f64Value (f64Nudge d f64One.toNat x) - v| ≤ 5 / 10 ^ 11) :
    |f64Value (alphaOf numB64 b h fs) - v| ≤ 5 / 10 ^ 11 := by
  rw [alphaOf_numB64, hq, f64Exp_neg hplus hz, hinf, decide_eq_false hmag, hx]
  exact hv _

/-- Settles O51: the quotient is a number without a sign unless 0 is divided by 0, and exp takes its
negative into [0, 1]. -/
theorem binaryAlphaIsInTheUnitInterval : Obligations.BinaryAlphaIsInTheUnitInterval := by
  refine ⟨?_, ?_, ?_⟩
  · intro b h fs hh hle hb hfin hpos
    have hr := f64Unsigned_mul_eighth hfin hpos
    have hd0 : f64IsFinite (f64OfInt (b - h)) = true := f64IsFinite_ofInt (by omega) (by omega)
    have hd : F64Unsigned (f64OfInt (b - h)) := f64Unsigned_ofInt (by omega)
    have hdz : b = h → f64IsZero (f64OfInt (b - h)) = true := by
      rintro rfl
      rw [sub_self]
      exact f64IsZero_ofInt_zero
    have hdnz : b ≠ h → f64IsZero (f64OfInt (b - h)) = false :=
      fun hne => f64IsZero_ofInt (by omega)
    rw [alphaOf_numB64]
    generalize f64OfInt (b - h) = d at *
    generalize f64Mul fs f64Eighth = r at *
    refine ⟨fun hz hbh => ?_, fun hor => ?_, fun hz hbh => ?_, fun hq => ?_⟩
    · exact f64Exp_nan ((f64IsNaN_neg _).trans (f64IsNaN_div_zero (hdz hbh) hz))
    · have unit := f64InUnit_exp_neg (f64Unsigned_div hd hd0 hr (hor.imp_right hdnz))
      exact ⟨unit.finite, unit.plus, unit.nonneg, unit.le_one⟩
    · exact f64Exp_zero ((f64IsZero_neg _).trans (f64IsZero_div hd (hdz hbh) hr hz))
    · have hnum : f64IsNaN (f64Div d r) = false :=
        hq.elim f64IsNaN_of_inf fun h => f64IsNaN_of_finite h.2
      have hplus : F64Unsigned (f64Div d r) := by
        refine f64Unsigned_div hd hd0 hr ?_
        by_contra hzero
        rw [not_or, Bool.not_eq_false, Bool.not_eq_false] at hzero
        rw [f64IsNaN_div_zero hzero.2 hzero.1] at hnum
        cases hnum
      exact f64Exp_neg_underflow hplus (hq.imp_right And.left)
  · exact alphaOf_close (q := 0x3FB999999999999A#64) (x := 0x3FECF46D99D52B3A#64)
      (by decide +kernel) ⟨by decide, by decide⟩ (by decide) (by decide) (by decide +kernel)
      (by decide +kernel) (by decide +kernel)
  · exact alphaOf_close (q := f64One) (x := 0x3FD78B56362CEF38#64)
      (by decide +kernel) ⟨by decide, by decide⟩ (by decide) (by decide) (by decide +kernel)
      (by decide +kernel) (by decide +kernel)

end Sys2Proof.Machine
end

section
/-!
SUPPORT. The transactions of the host (20_memory.md R61 to R67): what a step answers to each, by
register and bank number, and when it answers BusError.
-/

namespace Sys2Proof.Machine

open Sys2Proof.Claims

variable {s t : State} {e : HostEvent B64} {rest : List (HostEvent B64)}

/-- A step takes the oldest pending event off the list. -/
theorem step_of_pending (h : s.pending = e :: rest) :
    step s = ({ s with pending := rest } : State).takeEvent e := by
  rw [step, State.takeNext, h]

/-! ## Registers by number -/

theorem regOfNumber_eq_none_iff (n : Nat) : regOfNumber n = none ↔ 12 < n := by
  match n with
  | 0 | 1 | 2 | 3 | 4 | 5 | 6 | 7 | 8 | 9 | 10 | 11 | 12 => decide
  | n + 13 => exact iff_of_true rfl (by omega)

/-- Only the number 0 names CMD. -/
theorem regOfNumber_cmd {n : Nat} (h : regOfNumber n = some .cmd) : n = 0 := by
  unfold regOfNumber at h
  split at h <;> cases h
  rfl

theorem readReg_eq_registerValue (b : Block B64) (n : Nat) :
    (regOfNumber n).bind b.readReg = registerValue b n := by
  match n with
  | 0 | 1 | 2 | 3 | 4 | 5 | 6 | 7 | 8 | 9 | 10 | 11 | 12 => rfl
  | n + 13 => rfl

theorem registerValue_eq_none_iff (b : Block B64) (n : Nat) :
    registerValue b n = none ↔ 12 < n ∨ n = 0 := by
  match n with
  | 0 => exact iff_of_true rfl (.inr rfl)
  | 1 | 2 | 3 | 4 | 5 | 6 | 7 | 8 | 9 | 10 | 11 | 12 => exact iff_of_false nofun (by decide)
  | n + 13 => exact iff_of_true rfl (by omega)

/-- A RegWrite that is not a command word stores nothing exactly when it is a BusError case. -/
theorem writeReg_eq_none_iff {n : Nat} {r : Reg} (hr : regOfNumber n = some r) {v : Value B64}
    (hv : r = .cmd → isNum v) (b : Block B64) :
    b.writeReg r v = none ↔ busErrorCase b (.regWrite n v) := by
  cases v with
  | num x =>
    match n, hr with
    | 4, rfl => exact iff_of_false nofun (by simp [busErrorCase, isNum])
    | 0, rfl | 1, rfl | 2, rfl | 3, rfl | 5, rfl | 6, rfl | 7, rfl | 8, rfl | 9, rfl | 10, rfl
    | 11, rfl | 12, rfl => exact iff_of_true rfl (.inr (.inr (.inr ⟨by decide, trivial⟩)))
  | word w =>
    match n, hr with
    | 0, rfl => exact (hv rfl).elim
    | 2, rfl | 3, rfl | 5, rfl | 6, rfl | 7, rfl =>
      exact iff_of_false nofun (by simp [busErrorCase, isNum])
    | 4, rfl => exact iff_of_true rfl (.inr (.inr (.inl ⟨rfl, id⟩)))
    | 1, rfl | 8, rfl | 9, rfl | 10, rfl | 11, rfl | 12, rfl =>
      exact iff_of_true rfl (.inr (.inl (by decide)))

/-! ## Banks by number -/

theorem bankOfNumber_eq_none_iff (n : Nat) : bankOfNumber n = none ↔ 17 < n := by
  match n with
  | 0 | 1 | 2 | 3 | 4 | 5 | 6 | 7 | 8 | 9 | 10 | 11 | 12 | 13 | 14 | 15 | 16 | 17 => decide
  | n + 18 => exact iff_of_true rfl (by omega)

theorem not_lt_of_bankOfNumber {n : Nat} {bank : Bank} (h : bankOfNumber n = some bank) :
    ¬17 < n := fun hn => by simp [(bankOfNumber_eq_none_iff n).2 hn] at h

theorem bankOfNumber_channel (c : Channel) : bankOfNumber (channelNumber c) = some (.inp c) := by
  cases c <;> rfl

/-- A number names an input bank exactly when it is 0 or 1. -/
theorem mem_inputNumbers_iff {n : Nat} {bank : Bank} (h : bankOfNumber n = some bank) :
    n ∈ [0, 1] ↔ ∃ c, bank = .inp c := by
  match n, h with
  | 0, rfl | 1, rfl => exact iff_of_true (by decide) ⟨_, rfl⟩
  | 2, rfl | 3, rfl | 4, rfl | 5, rfl | 6, rfl | 7, rfl | 8, rfl | 9, rfl | 10, rfl | 11, rfl
  | 12, rfl | 13, rfl | 14, rfl | 15, rfl | 16, rfl | 17, rfl =>
    exact iff_of_false (by decide) nofun

theorem denseBank_eq_bankElems (b : Block B64) (n : Nat) :
    (bankOfNumber n).bind b.denseBank = bankElems b n := by
  match n with
  | 0 | 1 | 2 | 3 | 4 | 5 | 6 | 7 | 8 | 9 | 10 | 11 | 12 | 13 | 14 | 15 | 16 | 17 => rfl
  | n + 18 => rfl

/-- A length of 10_state.md R20 while an estimator exists, and 0 while none does (R37). -/
def Block.lengthIfBuilt (b : Block B64) (n : Nat) : Nat := if b.configured = false then 0 else n

theorem Block.lengthsAre_of_sized {b : Block B64} (h : b.sized = true) :
    b.lengthsAre (b.lengthIfBuilt b.blockLen) (b.lengthIfBuilt b.fftLen)
      (b.lengthIfBuilt (2 * b.fftLen)) (b.lengthIfBuilt (b.fftLen + 2))
      (b.lengthIfBuilt (b.fftLen / 2 + 1)) = true := by
  unfold Block.sized at h
  cases hc : b.configured <;> simpa [Block.lengthIfBuilt, hc] using h

/-- The table of lengths is right for the banks of a block that has its sizes. -/
theorem bankLength_eq_tableLength {b : Block B64} (hs : b.sized = true) {n : Nat} {bank : Bank}
    (h : bankOfNumber n = some bank) : b.bankLength params bank = tableLength b n := by
  obtain ⟨hwin, hxbuf, hspec, hconj, hinst, hacc, hout, hout0, hout1⟩ :=
    (Block.lengthsAre_iff ..).1 (Block.lengthsAre_of_sized hs)
  match n, h with
  | 0, rfl | 1, rfl => rfl
  | 2, rfl => exact hwin
  | 3, rfl | 4, rfl => exact hxbuf _
  | 5, rfl | 6, rfl => exact hspec _
  | 7, rfl | 8, rfl => exact hconj _
  | 9, rfl | 10, rfl | 11, rfl => exact hinst _
  | 12, rfl | 13, rfl | 14, rfl => exact hacc _
  | 15, rfl => exact hout
  | 16, rfl => exact hout0
  | 17, rfl => exact hout1

theorem Block.readElem_dense {F : Type} {p : Params F} {u : Channel → Nat → F} {b : Block F}
    {bank : Bank} {l : List F} (h : b.denseBank bank = some l) (i : Nat) :
    b.readElem p u i bank = l[i]? := by
  cases bank <;> cases h <;> rfl

theorem Block.readElem_eq_none_iff {F : Type} (p : Params F) (u : Channel → Nat → F) (b : Block F)
    (i : Nat) (bank : Bank) : b.readElem p u i bank = none ↔ b.bankLength p bank ≤ i := by
  cases hd : b.denseBank bank with
  | some l => rw [Block.readElem_dense hd, List.getElem?_eq_none_iff, Block.bankLength, hd]
  | none =>
    cases bank with
    | inp c => simp [Block.readElem, Block.bankLength, Block.denseBank]
    | _ => cases hd

theorem Block.writeElem_inp {F : Type} {p : Params F} {i : Nat} (h : i < p.inCap) (b : Block F)
    (c : Channel) (v : F) : b.writeElem p (.inp c) i (.num v)
      = some { b with inp := b.inp.set c (memWrite (b.inp.get c) i v) } := if_pos h

/-- A MemWrite stores numbers of type F, in an input bank, inside it. -/
theorem Block.writeElem_eq_none_iff (p : Params B64) (b : Block B64) (bank : Bank) (i : Nat)
    (v : Value B64) : b.writeElem p bank i v = none ↔
      (¬∃ c, bank = .inp c) ∨ b.bankLength p bank ≤ i ∨ ¬isNum v := by
  cases v with
  | word w => exact iff_of_true rfl (.inr (.inr id))
  | num x =>
    cases bank with
    | inp c => simp [Block.writeElem, Block.bankLength, Block.denseBank, isNum]
    | _ => exact iff_of_true rfl (.inl nofun)

/-! ## Reads -/

theorem State.answer_eq_respond (s : State) (o : Option (Value B64)) :
    s.answer o = s.respond (o.elim .busError .value) := by
  cases o <;> rfl

theorem step_regRead {n : Nat} (h : s.pending = .regRead n :: rest) :
    step s = .next (({ s with pending := rest } : State).answer (registerValue s.block n)) := by
  rw [step_of_pending h, State.takeEvent, readReg_eq_registerValue]

theorem step_memRead {n i : Nat} {bank : Bank} (h : s.pending = .memRead n i :: rest)
    (hb : bankOfNumber n = some bank) :
    step s = .next (({ s with pending := rest } : State).answer
      ((s.block.readElem params s.unwritten i bank).map .num)) := by
  rw [step_of_pending h, State.takeEvent, hb]
  rfl

/-- A MemRead inside an input bank answers the element, or its free value where there is none. -/
theorem step_memRead_inp {c : Channel} {i : Nat}
    (h : s.pending = .memRead (channelNumber c) i :: rest) (hi : i < params.inCap) :
    step s = .next { s with
      pending := rest
      response := some
        (.value (.num ((memRead (s.block.inp.get c) i).getD (s.unwritten c i)))) } := by
  rw [step_memRead h (bankOfNumber_channel c), Block.readElem, if_pos hi]
  rfl

/-- Settles O10: the number names the register, which answers its value or BusError. -/
theorem regReadReturnsTheRegister : Obligations.RegReadReturnsTheRegister := by
  intro s n rest h
  rw [step_regRead h]
  cases registerValue s.block n <;> rfl

/-- Settles O15: a read only answers, whichever register or bank it names. -/
theorem hostReadsChangeNothing : Obligations.HostReadsChangeNothing := by
  intro s e rest hread h
  rw [step_of_pending h]
  cases e with
  | regRead n => exact ⟨_, congrArg _ (State.answer_eq_respond _ _)⟩
  | memRead n i => exact ⟨_, congrArg _ (State.answer_eq_respond _ _)⟩
  | regWrite n v => exact hread.elim
  | memWrite n i v => exact hread.elim
  | reset => exact hread.elim

/-- Settles O12: a dense bank answers from its list; an input bank answers below IN_CAP, where an
unwritten element has the free value of its epoch, channel and index. -/
theorem memReadReturnsTheElement : Obligations.MemReadReturnsTheElement := by
  refine ⟨?dense, ?written, ?unwritten, ?past⟩
  case dense =>
    intro s n i l rest h hl
    rw [← denseBank_eq_bankElems] at hl
    obtain ⟨bank, hbank, hdense⟩ := Option.bind_eq_some_iff.1 hl
    rw [step_memRead h hbank, Block.readElem_dense hdense]
    cases l[i]? <;> rfl
  case written =>
    intro s c i v rest h hi hv
    rw [step_memRead_inp h hi, hv]
    rfl
  case unwritten =>
    intro epoch c i
    refine ⟨Config.unwrittenSample epoch (channelNumber c) i, ?_⟩
    rintro s rest rfl h hi hnone
    rw [step_memRead_inp h hi, hnone]
    rfl
  case past =>
    intro s c i rest h hi
    rw [step_memRead h (bankOfNumber_channel c), (Block.readElem_eq_none_iff ..).2 hi]
    rfl

/-! ## Writes -/

/-- Settles O11: each of the six numbers names a register that stores the value. -/
theorem regWriteStoresTheValue : Obligations.RegWriteStoresTheValue := fun _ _ _ _ =>
  ⟨step_of_pending, step_of_pending, step_of_pending, step_of_pending, step_of_pending,
    step_of_pending⟩

theorem step_memWrite_inp {c : Channel} {i : Nat} {v : B64}
    (h : s.pending = .memWrite (channelNumber c) i (.num v) :: rest) (hi : i < params.inCap) :
    step s = .next { s with
      block := { s.block with inp := s.block.inp.set c (memWrite (s.block.inp.get c) i v) }
      pending := rest, response := some .ok } := by
  rw [step_of_pending h, State.takeEvent, bankOfNumber_channel, Option.bind_some,
    Block.writeElem_inp hi]
  rfl

/-- Settles O13: the bank becomes `memWrite` of the old one, and a MemRead finds it there. -/
theorem memWriteStoresTheSample : Obligations.MemWriteStoresTheSample := by
  intro s c i v rest hi h
  refine ⟨memWrite (s.block.inp.get c) i v, step_memWrite_inp h hi, memRead_memWrite_same _ i v,
    fun j hj => memRead_memWrite_other _ v hj, Memory.wf_memWrite i v, fun rest' => ?_⟩
  rw [step_memRead_inp rfl hi, PerChannel.get_set_same, memRead_memWrite_same]
  rfl

/-! ## BusError -/

/-- t is what a transaction in s leaves that answers BusError exactly when `bad` holds: then the
block is as it was, otherwise the answer is a success (20_memory.md R63, R64). -/
def State.BusErrorExactlyIf (bad : Prop) (s t : State) : Prop :=
  (bad ∧ t = s.busError) ∨
  (¬bad ∧ (t.response = some .ok ∨ ∃ v, t.response = some (.value v)))

theorem State.busErrorExactlyIf_answer {bad : Prop} {o : Option (Value B64)} (h : o = none ↔ bad) :
    s.BusErrorExactlyIf bad (s.answer o) := by
  cases o with
  | none => exact .inl ⟨h.1 rfl, rfl⟩
  | some v => exact .inr ⟨fun hb => Option.some_ne_none v (h.2 hb), .inr ⟨v, rfl⟩⟩

theorem State.busErrorExactlyIf_store {bad : Prop} {o : Option (Block B64)} (h : o = none ↔ bad) :
    s.BusErrorExactlyIf bad (s.store o) := by
  cases o with
  | none => exact .inl ⟨h.1 rfl, rfl⟩
  | some b => exact .inr ⟨fun hb => Option.some_ne_none b (h.2 hb), .inl rfl⟩

/-- A command word that runs to its end is answered Ok, legal or not (20_memory.md R63). -/
theorem State.writeCmd_response {w : W32} (h : s.writeCmd w = .next t) : t.response = some .ok := by
  unfold State.writeCmd at h
  split at h <;> obtain ⟨u, _, rfl⟩ := State.commandEnded_next h <;> rfl

theorem State.regWrite_eq_store {r : Reg} {v : Value B64} (hv : r = .cmd → isNum v) :
    s.regWrite r v = .next (s.store (s.block.writeReg r v)) := by
  cases v with
  | num x => cases r <;> rfl
  | word w =>
    cases r with
    | cmd => exact (hv rfl).elim
    | _ => rfl

theorem State.busErrorExactlyIf_regWrite {n : Nat} {r : Reg} {v : Value B64}
    (hr : regOfNumber n = some r) (h : s.regWrite r v = .next t) :
    s.BusErrorExactlyIf (busErrorCase s.block (.regWrite n v)) t := by
  by_cases hv : r = .cmd → isNum v
  · rw [State.regWrite_eq_store hv] at h
    cases h
    exact State.busErrorExactlyIf_store (writeReg_eq_none_iff hr hv s.block)
  · obtain ⟨rfl, hword⟩ := Classical.not_imp.1 hv
    obtain rfl := regOfNumber_cmd hr
    cases v with
    | num x => exact absurd trivial hword
    | word w => exact .inr ⟨by simp [busErrorCase, isNum], .inl (State.writeCmd_response h)⟩

theorem memRead_eq_none_iff (hs : s.block.sized = true) (n i : Nat) :
    ((bankOfNumber n).bind (s.block.readElem params s.unwritten i)).map Value.num = none ↔
      busErrorCase s.block (.memRead n i) := by
  cases hb : bankOfNumber n with
  | none => exact iff_of_true rfl (.inl ((bankOfNumber_eq_none_iff n).1 hb))
  | some bank =>
    rw [Option.bind_some, Option.map_eq_none_iff, Block.readElem_eq_none_iff,
      bankLength_eq_tableLength hs hb, busErrorCase, or_iff_right (not_lt_of_bankOfNumber hb)]

theorem memWrite_eq_none_iff (hs : s.block.sized = true) (n i : Nat) (v : Value B64) :
    ((bankOfNumber n).bind fun bank => s.block.writeElem params bank i v) = none ↔
      busErrorCase s.block (.memWrite n i v) := by
  cases hb : bankOfNumber n with
  | none => exact iff_of_true rfl (.inl ((bankOfNumber_eq_none_iff n).1 hb))
  | some bank =>
    rw [Option.bind_some, Block.writeElem_eq_none_iff, bankLength_eq_tableLength hs hb,
      ← mem_inputNumbers_iff hb, busErrorCase, or_iff_right (not_lt_of_bankOfNumber hb)]

/-- Every transaction answers BusError exactly in its case (20_memory.md R64). -/
theorem State.busErrorExactlyIf_takeEvent (hs : s.block.sized = true) (he : e ≠ .reset)
    (h : s.takeEvent e = .next t) : s.BusErrorExactlyIf (busErrorCase s.block e) t := by
  cases e with
  | regRead n =>
    cases h
    rw [readReg_eq_registerValue]
    exact State.busErrorExactlyIf_answer (registerValue_eq_none_iff s.block n)
  | regWrite n v =>
    simp only [State.takeEvent] at h
    split at h
    · next hr =>
      cases h
      exact .inl ⟨.inl ((regOfNumber_eq_none_iff n).1 hr), rfl⟩
    · next r hr => exact State.busErrorExactlyIf_regWrite hr h
  | memRead n i =>
    cases h
    exact State.busErrorExactlyIf_answer (memRead_eq_none_iff hs n i)
  | memWrite n i v =>
    cases h
    exact State.busErrorExactlyIf_store (memWrite_eq_none_iff hs n i v)
  | reset => exact absurd rfl he

/-- Settles O14: each transaction answers BusError exactly in its case, and the reset pulse answers
nothing. -/
theorem busErrorExactlyInTheListedCases : Obligations.BusErrorExactlyInTheListedCases := by
  intro s t e rest hs h ht
  rw [step_of_pending h] at ht
  by_cases he : e = .reset
  · subst he
    cases ht
    exact ⟨iff_of_false nofun id, False.elim, fun _ hne => absurd rfl hne⟩
  · rcases State.busErrorExactlyIf_takeEvent (s := { s with pending := rest }) hs he ht with
      ⟨hbad, rfl⟩ | ⟨hgood, hresp⟩
    · exact ⟨iff_of_true rfl hbad, fun _ => ⟨rfl, rfl, rfl⟩, fun hgood => absurd hbad hgood⟩
    · refine ⟨iff_of_false ?_ hgood, fun hbad => absurd hbad hgood, fun _ _ => hresp⟩
      rcases hresp with hok | ⟨v, hv⟩
      · simp [hok]
      · simp [hv]

end Sys2Proof.Machine
end

section
/-!
SUPPORT. Which unit each command runs on which block, said once for all nine commands, and what
follows for the elements that a command does not write (20_memory.md R77).
-/

namespace Sys2Proof.Machine

open Sys2Proof.Claims

variable {F : Type} {α : Type} {p : Params F} {i : Instr} {b b' : Block F}

/-! ## The operand of a word -/

theorem eq_chanArg_of_channelOf {arg : BitVec 8} {c : Channel} (h : channelOf arg = some c) :
    arg = chanArg c := by
  unfold channelOf at h
  split at h
  · cases h
    assumption
  · split at h <;> cases h
    assumption

theorem eq_specArg_of_spectrumOf {arg : BitVec 8} {k : Spectrum} (h : spectrumOf arg = some k) :
    arg = specArg k := by
  unfold spectrumOf at h
  split at h
  · cases h
    assumption
  · split at h
    · cases h
      assumption
    · split at h <;> cases h
      assumption

/-! ## What a command runs -/

/-- `b.Runs p i d`: command i, run on b, can leave d but for the completion code. A refused command
runs nothing; the others run the units of their row on the channel or spectrum they name
(20_memory.md R77), and CONFIG stops after its destruction when a check fails (40_config.md R109). -/
inductive Block.Runs (p : Params F) (b : Block F) : Instr → Block F → Prop
  | nothing (i : Instr) : Runs p b i b
  | destroy : Runs p b .config (b.destroy p.num.zero)
  | construct : Runs p b .config ((b.destroy p.num.zero).construct p)
  | process {row0 row1 : List F} (h0 : readRow (b.inp.get .ch0) b.blockLen 0 = .ok row0)
      (h1 : readRow (b.inp.get .ch1) b.blockLen 0 = .ok row1) :
      Runs p b .process (tickEffect p (spectralSteps p
        ((b.windowRow p.num .ch0 row0).windowRow p.num .ch1 row1)))
  | win (c : Channel) {row : List F} (h : readRow (b.inp.get c) b.blockLen 0 = .ok row) :
      Runs p b (.win (chanArg c)) (b.windowRow p.num c row)
  | fft (c : Channel) : Runs p b (.fft (chanArg c)) (fftEffect p c b)
  | conj (c : Channel) : Runs p b (.conj (chanArg c)) (conjEffect p c b)
  | cmul (k : Spectrum) : Runs p b (.cmul (specArg k)) (cmulEffect p k b)
  | smooth (k : Spectrum) : Runs p b (.smooth (specArg k)) (smoothEffect p k b)
  | tick : Runs p b .tick (tickEffect p b)

/-- Command i can leave b' from b: what it runs, and a completion code. -/
def Block.Leaves (p : Params F) (i : Instr) (b b' : Block F) : Prop :=
  ∃ d e, b.Runs p i d ∧ b' = d.raise e

theorem Block.leaves_raise (e : Completion) : b.Leaves p i (b.raise e) := ⟨b, e, .nothing i, rfl⟩

theorem Block.leaves_command {effect : Block F → Block F} (h : b.Runs p i (effect b)) :
    b.Leaves p i (b.command effect) := by
  rcases Block.command_cases effect b with ⟨_, e⟩ | ⟨_, e⟩ <;> rw [e]
  · exact Block.leaves_raise _
  · exact ⟨_, .ok, h, rfl⟩

theorem Block.leaves_checkedCommand {bad : Block F → Bool}
    {effect : Block F → Except Fault (Block F)} (hr : ∀ d, effect b = .ok d → b.Runs p i d)
    (h : b.checkedCommand bad effect = .ok b') : b.Leaves p i b' := by
  rcases Block.checkedCommand_cases bad effect b with ⟨_, e⟩ | ⟨_, _, e⟩ | ⟨_, _, e⟩ <;>
    rw [e] at h
  · cases h
    exact Block.leaves_raise _
  · cases h
    exact Block.leaves_raise _
  · cases hd : effect b with
    | error f => rw [hd] at h; cases h
    | ok d =>
      rw [hd] at h
      cases h
      exact ⟨d, .ok, hr d hd, rfl⟩

theorem Block.leaves_operand {effect : α → Block F → Block F} {operand : Option α}
    (h : ∀ a, operand = some a → b.Runs p i (effect a b)) :
    b.Leaves p i (operand.elim (b.raise .illegalCommand) fun a => b.command (effect a)) := by
  cases operand with
  | none => exact Block.leaves_raise _
  | some a => exact Block.leaves_command (h a rfl)

theorem winEffect_runs {c : Channel} {d : Block F} (h : winEffect p c b = .ok d) :
    b.Runs p (.win (chanArg c)) d := by
  rcases winEffect_cases p c b with ⟨row, hrow, e⟩ | ⟨j, _, e⟩ <;> rw [e] at h <;> cases h
  exact .win c hrow

theorem processEffect_runs {d : Block F} (h : processEffect p b = .ok d) : b.Runs p .process d := by
  rcases processEffect_cases p b with ⟨row0, row1, h0, h1, e⟩ | ⟨c, j, _, e⟩ <;>
    rw [e] at h <;> cases h
  exact .process h0 h1

theorem runWin_leaves {arg : BitVec 8} (h : runWin p arg b = .ok b') :
    b.Leaves p (.win arg) b' := by
  rw [runWin_eq] at h
  cases hc : channelOf arg with
  | none =>
    rw [hc] at h
    cases h
    exact Block.leaves_raise _
  | some c =>
    rw [hc] at h
    obtain rfl := eq_chanArg_of_channelOf hc
    exact Block.leaves_checkedCommand (fun _ => winEffect_runs) h

theorem runConfig_leaves (p : Params F) (b : Block F) : b.Leaves p .config (runConfig p b) := by
  rcases runConfig_cases p b with ⟨_, e⟩ | ⟨_, _, e⟩ | ⟨_, _, e⟩ <;> rw [e]
  · exact ⟨_, _, .destroy, rfl⟩
  · exact ⟨_, _, .destroy, rfl⟩
  · exact ⟨_, .ok, .construct, rfl⟩

/-- Everything any command can do to the machine. -/
theorem exec_leaves {s t : State} (h : exec i s = .next t) :
    ∃ b, s.block.Leaves params i b ∧ t = s.withBlock b := by
  cases i with
  | nop =>
    cases h
    exact ⟨_, Block.leaves_raise .ok, rfl⟩
  | config =>
    cases h
    exact ⟨_, runConfig_leaves _ _, rfl⟩
  | process =>
    obtain ⟨b, hb, rfl⟩ := State.outcome_next h
    exact ⟨b, Block.leaves_checkedCommand (fun _ => processEffect_runs) hb, rfl⟩
  | win arg =>
    obtain ⟨b, hb, rfl⟩ := State.outcome_next h
    exact ⟨b, runWin_leaves hb, rfl⟩
  | fft arg =>
    cases h
    exact ⟨_, runFft_eq params arg _ ▸ Block.leaves_operand fun c hc =>
      eq_chanArg_of_channelOf hc ▸ .fft c, rfl⟩
  | conj arg =>
    cases h
    exact ⟨_, runConj_eq params arg _ ▸ Block.leaves_operand fun c hc =>
      eq_chanArg_of_channelOf hc ▸ .conj c, rfl⟩
  | cmul arg =>
    cases h
    exact ⟨_, runCmul_eq params arg _ ▸ Block.leaves_operand fun k hk =>
      eq_specArg_of_spectrumOf hk ▸ .cmul k, rfl⟩
  | smooth arg =>
    cases h
    exact ⟨_, runSmooth_eq params arg _ ▸ Block.leaves_operand fun k hk =>
      eq_specArg_of_spectrumOf hk ▸ .smooth k, rfl⟩
  | tick =>
    cases h
    exact ⟨_, Block.leaves_command .tick, rfl⟩

/-! ## The host's registers -/

/-- What of the block only the host writes: the staging registers, the input descriptors and the
input banks (10_state.md R21, R28, R29). -/
def Block.hostPart (b : Block F) :
    W32 × W32 × F × W32 × PerChannel W32 × PerChannel (Memory F) :=
  (b.blocksize, b.hopsize, b.samplerate, b.nch, b.inlen, b.inp)

theorem Block.Runs.hostPart {d : Block F} (h : b.Runs p i d) : d.hostPart = b.hostPart := by
  cases h with
  | process => simp [Block.hostPart]
  | tick => simp [Block.hostPart]
  | nothing | destroy | construct | win | fft | conj | cmul | smooth => rfl

/-- Settles O43: what any command runs keeps the host's part of the block. -/
theorem noCommandWritesTheHostsRegisters : Obligations.NoCommandWritesTheHostsRegisters := by
  intro i s t h
  obtain ⟨_, ⟨d, e, hrun, rfl⟩, rfl⟩ := exec_leaves h
  have hkept := hrun.hostPart
  simp only [Block.hostPart, Prod.mk.injEq] at hkept
  obtain ⟨hblocksize, hhopsize, hsamplerate, hnch, hinlen, hinp⟩ := hkept
  exact ⟨hblocksize, hhopsize, hsamplerate, hnch, hinlen, hinp, rfl, rfl, rfl⟩

/-! ## The banks -/

/-- What the command f writes on channel c keeps channel d, when f on d is another command. -/
theorem PerChannel.get_set_of_ne {P : PerChannel α} {c : Channel} {a : α} {f : BitVec 8 → Instr}
    (d : Channel) (h : f (chanArg c) ≠ f (chanArg d)) : (P.set c a).get d = P.get d :=
  PerChannel.get_set_other P a fun hd => h (hd ▸ rfl)

theorem PerSpectrum.get_set_of_ne {P : PerSpectrum α} {k : Spectrum} {a : α} {f : BitVec 8 → Instr}
    (j : Spectrum) (h : f (specArg k) ≠ f (specArg j)) : (P.set k a).get j = P.get j :=
  PerSpectrum.get_set_other P a fun hj => h (hj ▸ rfl)

/-- Settles O45: each unit replaces the bank of its own channel or spectrum. -/
theorem banksAreWrittenOnlyByTheirCommand : Obligations.BanksAreWrittenOnlyByTheirCommand := by
  intro i s t hconfig hprocess h
  obtain ⟨_, ⟨d, e, hrun, rfl⟩, rfl⟩ := exec_leaves h
  have kept {β γ : Type} {P : β → Prop} {x : β → γ} : ∀ c, P c → x c = x c := fun _ _ => rfl
  have counted {P : Prop} : P → s.block.out = s.block.out ∧ s.block.cnt = s.block.cnt ∧
    s.block.outValid = s.block.outValid := fun _ => ⟨rfl, rfl, rfl⟩
  cases hrun with
  | destroy | construct => exact absurd rfl hconfig
  | process => exact absurd rfl hprocess
  | nothing => exact ⟨kept, kept, kept, kept, kept, counted⟩
  | win c => exact ⟨PerChannel.get_set_of_ne, kept, kept, kept, kept, counted⟩
  | fft c => exact ⟨kept, PerChannel.get_set_of_ne, kept, kept, kept, counted⟩
  | conj c => exact ⟨kept, kept, PerChannel.get_set_of_ne, kept, kept, counted⟩
  | cmul k => exact ⟨kept, kept, kept, PerSpectrum.get_set_of_ne, kept, counted⟩
  | smooth k => exact ⟨kept, kept, kept, kept, PerSpectrum.get_set_of_ne, counted⟩
  | tick =>
    exact ⟨fun c _ => congrArg (PerChannel.get · c) (tickEffect_xbuf ..),
      fun c _ => congrArg (PerChannel.get · c) (tickEffect_spec ..),
      fun c _ => congrArg (PerChannel.get · c) (tickEffect_conj ..),
      fun k _ => congrArg (PerSpectrum.get · k) (tickEffect_inst ..),
      fun k _ => congrArg (PerSpectrum.get · k) (tickEffect_acc ..), fun ht => absurd rfl ht⟩

end Sys2Proof.Machine
end

section
/-!
SUPPORT. The command word in both directions: which command a word decodes to, which words decode,
and the step that takes a word written to CMD (30_encoding.md R81 to R84, R89).
-/

namespace Sys2Proof.Machine

open Sys2Proof.Claims

variable {op arg : BitVec 8} {i j : Instr} {mk : BitVec 8 → Instr} {e : DecodeError} {w : W32}
  {s : State} {rest : List (HostEvent B64)}

/-! ## The fields of a word -/

theorem opField_toNat (w : W32) : (opField w).toNat = w.toNat % 256 := by
  rw [opField, BitVec.extractLsb'_toNat, Nat.shiftRight_zero]

theorem argField_toNat (w : W32) : (argField w).toNat = w.toNat / 256 % 256 := by
  rw [argField, BitVec.extractLsb'_toNat, Nat.shiftRight_eq_div_pow]

theorem zeroField_toNat (w : W32) : (zeroField w).toNat = w.toNat / 65536 := by
  rw [zeroField, BitVec.extractLsb'_toNat, Nat.shiftRight_eq_div_pow]
  exact Nat.mod_eq_of_lt (by omega)

/-- A word is its three fields put together. -/
theorem append_fields (w : W32) :
    (zeroField w ++ argField w ++ opField w : BitVec (16 + 8 + 8)) = w := by
  apply BitVec.eq_of_toNat_eq
  rw [toNat_append_eq, toNat_append_eq, opField_toNat, argField_toNat, zeroField_toNat]
  omega

/-! ## Words that decode -/

/-- The command is well formed and has these two fields in its word. -/
def Instr.HasFields (i : Instr) (op arg : BitVec 8) : Prop :=
  i.wellFormed = true ∧ i.opcode = op ∧ i.argument = arg

theorem hasFields_of_decodeFmt0 (h : decodeFmt0 arg j = .ok i) (hj : Instr.HasFields j op 0#8) :
    Instr.HasFields i op arg := by
  unfold decodeFmt0 at h
  split at h <;> cases h
  next harg => exact harg ▸ hj

theorem hasFields_of_decodeFmt1 (h : decodeFmt1 arg mk = .ok i)
    (hmk : arg.toNat < 2 → Instr.HasFields (mk arg) op arg) : Instr.HasFields i op arg := by
  unfold decodeFmt1 at h
  split at h <;> cases h
  next harg => exact hmk harg

theorem hasFields_of_decodeFmt2 (h : decodeFmt2 arg mk = .ok i)
    (hmk : arg.toNat < 3 → Instr.HasFields (mk arg) op arg) : Instr.HasFields i op arg := by
  unfold decodeFmt2 at h
  split at h <;> cases h
  next harg => exact hmk harg

theorem hasFields_of_decodeOp (h : decodeOp op arg = .ok i) : Instr.HasFields i op arg := by
  unfold decodeOp at h
  split_ifs at h with nop config process win fft conj cmul smooth tick
  · exact hasFields_of_decodeFmt0 h ⟨rfl, nop.symm, rfl⟩
  · exact hasFields_of_decodeFmt0 h ⟨rfl, config.symm, rfl⟩
  · exact hasFields_of_decodeFmt0 h ⟨rfl, process.symm, rfl⟩
  · exact hasFields_of_decodeFmt1 h fun harg => ⟨decide_eq_true harg, win.symm, rfl⟩
  · exact hasFields_of_decodeFmt1 h fun harg => ⟨decide_eq_true harg, fft.symm, rfl⟩
  · exact hasFields_of_decodeFmt1 h fun harg => ⟨decide_eq_true harg, conj.symm, rfl⟩
  · exact hasFields_of_decodeFmt2 h fun harg => ⟨decide_eq_true harg, cmul.symm, rfl⟩
  · exact hasFields_of_decodeFmt2 h fun harg => ⟨decide_eq_true harg, smooth.symm, rfl⟩
  · exact hasFields_of_decodeFmt0 h ⟨rfl, tick.symm, rfl⟩

/-- Settles O1: the word's fields are the command's opcode and operand, and the opcode map takes
them back to the command. -/
theorem encodedCommandsDecodeBack : Obligations.EncodedCommandsDecodeBack := fun _ => decode_encode

/-- Settles O2: the opcode map fixes two fields of the word, and the third is zero. -/
theorem decodedWordsEncodeBack : Obligations.DecodedWordsEncodeBack := by
  intro w i h
  unfold decode at h
  split at h
  · cases h
  · next hzero =>
    obtain ⟨hwf, hop, harg⟩ := hasFields_of_decodeOp h
    refine ⟨hwf, ?_⟩
    rw [encode, hop, harg, ← not_not.1 hzero, append_fields]

/-- Settles O4: the words are those of the commands. -/
theorem wordsOfTheOpcodeMapDecode : Obligations.WordsOfTheOpcodeMapDecode :=
  ⟨decode_encode (i := .nop) rfl, decode_encode (i := .config) rfl,
    decode_encode (i := .process) rfl, decode_encode (i := .win 1#8) rfl,
    decode_encode (i := .fft 0#8) rfl, decode_encode (i := .conj 1#8) rfl,
    decode_encode (i := .cmul 2#8) rfl, decode_encode (i := .smooth 1#8) rfl,
    decode_encode (i := .tick) rfl⟩

/-! ## Legal and illegal words -/

theorem exists_chanArg (h : arg.toNat < 2) : ∃ c, arg = chanArg c :=
  (Option.isSome_iff_exists.1 ((channelOf_isSome arg).2 h)).imp fun _ => eq_chanArg_of_channelOf

theorem exists_specArg (h : arg.toNat < 3) : ∃ k, arg = specArg k :=
  (Option.isSome_iff_exists.1 ((spectrumOf_isSome arg).2 h)).imp fun _ => eq_specArg_of_spectrumOf

theorem encode_mem_legalWords (h : i.wellFormed = true) : encode i ∈ legalWords := by
  cases i with
  | nop | config | process | tick => decide
  | win arg | fft arg | conj arg =>
    obtain ⟨c, rfl⟩ := exists_chanArg (of_decide_eq_true h)
    cases c <;> decide
  | cmul arg | smooth arg =>
    obtain ⟨k, rfl⟩ := exists_specArg (of_decide_eq_true h)
    cases k <;> decide

theorem not_wordIllegal_of_mem_legalWords : ∀ w ∈ legalWords, ¬wordIllegal w := by
  unfold wordIllegal
  simp [legalWords]

theorem ne_zero_of_decodeFmt0_error (h : decodeFmt0 arg i = .error e) : arg.toNat ≠ 0 := by
  unfold decodeFmt0 at h
  split at h <;> cases h
  next harg => exact fun h0 => harg (BitVec.eq_of_toNat_eq h0)

theorem two_le_of_decodeFmt1_error (h : decodeFmt1 arg mk = .error e) : 2 ≤ arg.toNat := by
  unfold decodeFmt1 at h
  split at h <;> cases h
  next harg => exact not_lt.1 harg

theorem three_le_of_decodeFmt2_error (h : decodeFmt2 arg mk = .error e) : 3 ≤ arg.toNat := by
  unfold decodeFmt2 at h
  split at h <;> cases h
  next harg => exact not_lt.1 harg

/-- The two fields make a word illegal (30_encoding.md R84). -/
def fieldsIllegal (op arg : BitVec 8) : Prop :=
  op.toNat ∉ [0x00, 0x01, 0x02, 0x10, 0x11, 0x12, 0x13, 0x14, 0x15] ∨
  (op.toNat ∈ [0x00, 0x01, 0x02, 0x15] ∧ arg.toNat ≠ 0) ∨
  (op.toNat ∈ [0x10, 0x11, 0x12] ∧ 2 ≤ arg.toNat) ∨
  (op.toNat ∈ [0x13, 0x14] ∧ 3 ≤ arg.toNat)

theorem wordIllegal_iff (w : W32) :
    wordIllegal w ↔ zeroField w ≠ 0#16 ∨ fieldsIllegal (opField w) (argField w) := by
  rw [wordIllegal, fieldsIllegal, opField_toNat, argField_toNat, ne_eq (zeroField w),
    BitVec.toNat_eq, zeroField_toNat]
  rfl

theorem fieldsIllegal_of_decodeOp_error (h : decodeOp op arg = .error e) :
    fieldsIllegal op arg := by
  have fmt0 {i : Instr} (hop : op.toNat ∈ [0x00, 0x01, 0x02, 0x15])
      (h : decodeFmt0 arg i = .error e) : fieldsIllegal op arg :=
    .inr (.inl ⟨hop, ne_zero_of_decodeFmt0_error h⟩)
  have fmt1 {mk : BitVec 8 → Instr} (hop : op.toNat ∈ [0x10, 0x11, 0x12])
      (h : decodeFmt1 arg mk = .error e) : fieldsIllegal op arg :=
    .inr (.inr (.inl ⟨hop, two_le_of_decodeFmt1_error h⟩))
  have fmt2 {mk : BitVec 8 → Instr} (hop : op.toNat ∈ [0x13, 0x14])
      (h : decodeFmt2 arg mk = .error e) : fieldsIllegal op arg :=
    .inr (.inr (.inr ⟨hop, three_le_of_decodeFmt2_error h⟩))
  unfold decodeOp at h
  split_ifs at h with nop config process win fft conj cmul smooth tick
  · exact fmt0 (nop ▸ by decide) h
  · exact fmt0 (config ▸ by decide) h
  · exact fmt0 (process ▸ by decide) h
  · exact fmt1 (win ▸ by decide) h
  · exact fmt1 (fft ▸ by decide) h
  · exact fmt1 (conj ▸ by decide) h
  · exact fmt2 (cmul ▸ by decide) h
  · exact fmt2 (smooth ▸ by decide) h
  · exact fmt0 (tick ▸ by decide) h
  · left
    rw [BitVec.toNat_eq] at nop config process win fft conj cmul smooth tick
    simpa using ⟨nop, config, process, win, fft, conj, cmul, smooth, tick⟩

theorem wordIllegal_of_decode_error (h : decode w = .error e) : wordIllegal w := by
  rw [wordIllegal_iff]
  unfold decode at h
  split at h
  · next hzero => exact .inl hzero
  · exact .inr (fieldsIllegal_of_decodeOp_error h)

theorem exists_decode_of_not_wordIllegal (h : ¬wordIllegal w) : ∃ i, decode w = .ok i := by
  cases hd : decode w with
  | ok i => exact ⟨i, rfl⟩
  | error e => exact absurd (wordIllegal_of_decode_error hd) h

theorem mem_legalWords_of_decode (h : decode w = .ok i) : w ∈ legalWords := by
  obtain ⟨hwf, rfl⟩ := decodedWordsEncodeBack w i h
  exact encode_mem_legalWords hwf

theorem mem_legalWords_iff (w : W32) : w ∈ legalWords ↔ ¬wordIllegal w :=
  ⟨not_wordIllegal_of_mem_legalWords w, fun h =>
    let ⟨_, hd⟩ := exists_decode_of_not_wordIllegal h
    mem_legalWords_of_decode hd⟩

theorem exists_decode_iff (w : W32) : (∃ i, decode w = .ok i) ↔ ¬wordIllegal w :=
  ⟨fun ⟨_, hd⟩ => (mem_legalWords_iff w).1 (mem_legalWords_of_decode hd),
    exists_decode_of_not_wordIllegal⟩

/-! ## The step that takes a word -/

theorem step_regWrite_cmd (h : s.pending = .regWrite 0 (.word w) :: rest) :
    step s = ({ s with pending := rest } : State).writeCmd w := step_of_pending h

theorem State.writeCmd_of_decode_ok (s : State) (h : decode w = .ok i) :
    s.writeCmd w = State.commandEnded (exec i s) := by
  rw [State.writeCmd, h]

theorem State.writeCmd_of_wordIllegal (s : State) (h : wordIllegal w) :
    s.writeCmd w = .next { s with
      block := { s.block with err := .illegalCommand }, response := some .ok } := by
  cases hd : decode w with
  | ok i => exact absurd h ((exists_decode_iff w).1 ⟨i, hd⟩)
  | error e =>
    rw [State.writeCmd, hd]
    rfl

/-- Settles O3: what decodes is the word of a well-formed command, these are the 16 legal words,
none of them is illegal, and each error of the decoder is one of the three conditions. -/
theorem illegalWordsChangeOnlyTheCode : Obligations.IllegalWordsChangeOnlyTheCode :=
  ⟨rfl, by decide, mem_legalWords_iff, exists_decode_iff,
    fun _ _ _ hw hs => (step_regWrite_cmd hs).trans (State.writeCmd_of_wordIllegal _ hw), rfl⟩

/-- Settles O6: the word is taken off the list, decoded and run. -/
theorem stepRunsTheDecodedCommand : Obligations.StepRunsTheDecodedCommand := by
  intro s w i rest hs hd
  rw [step_regWrite_cmd hs, State.writeCmd_of_decode_ok _ hd]
  cases exec i { s with pending := rest } <;> rfl

end Sys2Proof.Machine
end

section
/-!
SUPPORT. NOP and CONFIG (40_config.md): the word of NOP, the functions CONFIG uses, and the state
that CONFIG constructs from the staging registers alone.
-/

namespace Sys2Proof.Machine

open Sys2Proof.Claims

variable {F : Type} {b c : Block F}

/-! ## NOP -/

/-- The opcode of NOP with anything but zeros above it (30_encoding.md R84). -/
theorem wordIllegal_of_nop_opcode {w : W32} (hop : w.toNat % 256 = 0) (hw : w.toNat ≠ 0) :
    wordIllegal w := by
  unfold wordIllegal
  by_cases hzero : w.toNat / 65536 = 0
  · refine .inr (.inr (.inl ⟨by simp [hop], ?_⟩))
    omega
  · exact .inl hzero

/-- Settles O25: NOP only completes, and no word but 0 with its opcode decodes. -/
theorem nopOnlyClearsTheCode : Obligations.NopOnlyClearsTheCode := by
  refine ⟨fun _ => rfl, by decide, fun w hop hw i hd => ?_, fun b hb => ?_⟩
  · exact (exists_decode_iff w).1 ⟨i, hd⟩ (wordIllegal_of_nop_opcode hop hw)
  · have hword := b.statusWord_toNat
    rw [hb] at hword
    have hconf := b.configured.toNat_lt
    have hout := b.outValid.toNat_lt
    have herr := (completionCode b.err).isLt
    have hcode : (completionCode Completion.ok).toNat = 0 := rfl
    rw [BitVec.toNat_eq, Block.statusWord_toNat, hcode]
    rw [BitVec.toNat_ofNat] at hword ⊢
    dsimp only
    omega

/-! ## nextPow2 -/

/-- The power of two from x on whose half is below x, there being no half of 1. -/
theorem nextPow2_unique {x m : Nat} (hle : x ≤ 2 ^ m) (hlt : 1 ≤ m → 2 ^ (m - 1) < x) :
    nextPow2 x = 2 ^ m := by
  rw [nextPow2_eq]
  congr 1
  refine le_antisymm (Nat.clog_le_of_le_pow hle) ?_
  rcases Nat.eq_zero_or_pos m with rfl | hm
  · exact Nat.zero_le _
  · have := (Nat.lt_clog_iff_pow_lt Nat.one_lt_two).2 (hlt hm)
    omega

theorem nextPow2_le_two_pow {x m : Nat} (h : x ≤ 2 ^ m) : nextPow2 x ≤ 2 ^ m := by
  rw [nextPow2_eq]
  exact Nat.pow_le_pow_right Nat.two_pos (Nat.clog_le_of_le_pow h)

theorem nextPow2_two_pow (m : Nat) : nextPow2 (2 ^ m) = 2 ^ m := by
  rw [nextPow2_eq, Nat.clog_pow 2 m Nat.one_lt_two]

/-- Settles O49: nextPow2 is two to the upper logarithm. -/
theorem nextPowerOfTwoIsTheSmallest : Obligations.NextPowerOfTwoIsTheSmallest := by
  refine ⟨fun x hx => ⟨⟨Nat.clog 2 x, nextPow2_eq x, Nat.le_pow_clog Nat.one_lt_two x,
    fun hm => ?_⟩, fun _ => nextPow2_unique, fun _ => nextPow2_le_two_pow, ?_, ⟨fun h => ?_, ?_⟩,
    nextPow2_le_two_pow⟩, ?_, nextPow2_two_pow 9, ?_⟩
  · exact (Nat.lt_clog_iff_pow_lt Nat.one_lt_two).1 (by omega)
  · rcases hx.eq_or_lt with rfl | hx
    · decide
    · exact nextPow2_lt hx
  · exact ⟨_, h.symm.trans (nextPow2_eq x)⟩
  · rintro ⟨m, rfl⟩
    exact nextPow2_two_pow m
  · exact nextPow2_unique (m := 9) (by decide) fun _ => by decide
  · exact nextPow2_unique (m := 10) (by decide) fun _ => by decide

/-! ## alpha over the reals -/

theorem alphaOf_numReal (b h : Int) (fs : ℝ) :
    alphaOf numReal b h fs = Real.exp (-(((b - h : Int) : ℝ) / (fs * (1 / 8)))) := rfl

/-- Settles O50: the exponent is never positive, and zero exactly when nothing overlaps. -/
theorem realAlphaIsInTheUnitInterval : Obligations.RealAlphaIsInTheUnitInterval := by
  intro b h fs _ hle hfs
  have hoverlap : (0 : ℝ) ≤ ((b - h : Int) : ℝ) := by exact_mod_cast sub_nonneg.2 hle
  have hrate : 0 < fs * (1 / 8) := by positivity
  rw [alphaOf_numReal]
  refine ⟨Real.exp_pos _, Real.exp_le_one_iff.2 (neg_nonpos.2 (div_nonneg hoverlap hrate.le)), ?_⟩
  rw [Real.exp_eq_one_iff, neg_eq_zero, div_eq_zero_iff, or_iff_left hrate.ne', Int.cast_eq_zero,
    sub_eq_zero]

/-! ## CONFIG -/

theorem exec_config (s : State) : exec .config s = .next (s.withBlock (runConfig params s.block)) :=
  rfl

/-- What CONFIG reads: the staging registers (40_config.md R110). -/
def Block.staging (b : Block F) : W32 × W32 × F := (b.blocksize, b.hopsize, b.samplerate)

/-- The checks read the staging registers, which the destruction keeps. -/
theorem runConfig_eq (p : Params F) (b : Block F) :
    runConfig p b =
      if b.configInvalid p.num then (b.destroy p.num.zero).raise .configurationError
      else if b.overCapacity p.log2NfftMax then (b.destroy p.num.zero).raise .capacityError
      else ((b.destroy p.num.zero).construct p).complete := rfl

/-- The result keeps the input of its own block and is otherwise a function of the staging
registers. -/
theorem runConfig_of_staging (p : Params F) (h : b.staging = c.staging) :
    runConfig p c = { runConfig p b with nch := c.nch, inlen := c.inlen, inp := c.inp } := by
  simp only [Block.staging, Prod.mk.injEq] at h
  obtain ⟨hblocksize, hhopsize, hsamplerate⟩ := h
  have hinvalid : c.configInvalid p.num = b.configInvalid p.num := by
    rw [Block.configInvalid, ← hblocksize, ← hhopsize, ← hsamplerate]
    rfl
  have hcapacity : c.overCapacity p.log2NfftMax = b.overCapacity p.log2NfftMax := by
    rw [Block.overCapacity, ← hblocksize]
    rfl
  have hdestroy : c.destroy p.num.zero = { b.destroy p.num.zero with
      err := c.err, nch := c.nch, inlen := c.inlen, inp := c.inp } := by
    rw [Block.destroy, ← hblocksize, ← hhopsize, ← hsamplerate]
    rfl
  rw [runConfig_eq, runConfig_eq, hinvalid, hcapacity, hdestroy]
  split_ifs <;> rfl

theorem runConfig_staging (p : Params F) (b : Block F) : (runConfig p b).staging = b.staging := by
  rcases runConfig_cases p b with ⟨_, e⟩ | ⟨_, _, e⟩ | ⟨_, _, e⟩ <;> rw [e] <;> rfl

theorem runConfig_idem (p : Params F) (b : Block F) :
    runConfig p (runConfig p b) = runConfig p b :=
  runConfig_of_staging p (runConfig_staging p b).symm

/-- Settles O27: CONFIG reads the staging registers and leaves them as they are. -/
theorem configTwiceIsConfigOnce : Obligations.ConfigTwiceIsConfigOnce := by
  refine ⟨fun s t s' t' ht ht' hblocksize hhopsize hsamplerate => ?_, fun s t ht => ?_⟩
  · cases ht
    cases ht'
    refine runConfig_of_staging params ?_
    rw [Block.staging, hblocksize, hhopsize, hsamplerate, Block.staging]
  · cases ht
    rw [exec_config, State.withBlock_block, runConfig_idem]
    rfl

theorem winDefault_length (num : Num F) (b N : Nat) : (winDefault num b N).length = b := by
  simp [winDefault]

/-- The checks of the model are those of the statement. -/
theorem configInvalid_of_block {b : Block B64} (h : b.configInvalid numB64 = true) :
    configInvalid b := by
  simp only [Block.configInvalid, Bool.or_eq_true, decide_eq_true_eq, Bool.not_eq_true'] at h
  obtain (((h | h) | h) | h) | h := h
  · exact .inl h
  · exact .inr (.inl h)
  · exact .inr (.inr (.inl h))
  · exact .inr (.inr (.inr (.inl h)))
  · exact .inr (.inr (.inr (.inr h)))

theorem construct_eq_built (b : Block B64) :
    ((b.destroy 0#64).construct params).complete
      = built b (nextPow2 b.blocksize.toInt.toNat) := by
  have hwin : firstElems numB64 b.blocksize.toInt.toNat
      (winDefault numB64 b.blocksize.toInt.toNat (nextPow2 b.blocksize.toInt.toNat))
      = winDefault numB64 b.blocksize.toInt.toNat (nextPow2 b.blocksize.toInt.toNat) :=
    firstElems_eq_self numB64 (winDefault_length _ _ _)
  rw [built, ← hwin]
  rfl

/-- Settles O26: both checks pass, and the block constructed is the one of the statement. -/
theorem configConstructsTheEstimator : Obligations.ConfigConstructsTheEstimator := by
  intro s hvalid htwo hcap
  have hinvalid : ¬s.block.configInvalid numB64 = true := mt configInvalid_of_block hvalid
  have hcapacity : ¬s.block.overCapacity Config.log2NfftMax = true := by
    have hlimit : ((2 ^ Config.log2NfftMax : Nat) : Int) = 65536 := rfl
    simp only [Block.overCapacity, hlimit, Bool.or_eq_true, decide_eq_true_eq]
    omega
  rw [exec_config, runConfig_eq, params_num, params_log2NfftMax, if_neg hinvalid, if_neg hcapacity,
    numB64_zero, construct_eq_built]
  rfl

end Sys2Proof.Machine
end

section
/-!
SUPPORT. How far a correctly rounded result is from the exact value (00_scope.md R13): not at all
when the value is a datum, and otherwise within half a last place, so that a computation in NUM_B64
is followed in the reals.
-/

namespace Sys2Proof.Machine

open Sys2Proof.Claims

variable {x y : ℝ} {r a b : B64}

/-! ## The distance of a rounding -/

theorem exists_roundsTo (hy : 0 ≤ y) : ∃ q j, RoundsTo y q j := by
  classical
  exact ⟨_, _, roundsTo_of_up (Nat.floor_le hy) (Nat.lt_floor_add_one y) (up := decide _)
    decide_eq_true_iff⟩

theorem scaled_eq_signed (x : ℝ) :
    x * (f64Scale : ℝ) = signed (decide (x < 0)) (|x| * (f64Scale : ℝ)) := by
  by_cases hx : x < 0
  · simp [signed, hx, abs_of_neg]
  · simp [signed, hx, abs_of_nonneg (not_lt.1 hx)]

/-- The rounding of the magnitude is a datum, so a correctly rounded result is no farther away. -/
theorem dist_le_of_correctlyRounded (h : correctlyRounded x r) (hf : f64IsFinite r = true) :
    ∃ q j, RoundsTo (|x| * (f64Scale : ℝ)) q j ∧
      |(f64Value r : ℝ) - x| ≤ |j * 2 ^ q - |x| * (f64Scale : ℝ)| / (f64Scale : ℝ) := by
  obtain ⟨hsmall, hnearest⟩ := h.1 hf
  have hS := f64Scale_real_pos
  obtain ⟨q, j, hj⟩ := exists_roundsTo (mul_nonneg (abs_nonneg x) hS.le)
  have hlt : q * 2 ^ 52 + j < 2047 * 2 ^ 52 := by
    refine (hj.below_top_iff 2044).2 ?_
    rwa [← overflow_units, mul_lt_mul_iff_left₀ hS]
  refine ⟨q, j, hj, ((hnearest _ (f64IsFinite_make (decide (x < 0)) hlt)).1).trans (le_of_eq ?_)⟩
  rw [f64Value_dist (scaled_eq_signed x), f64Units_make _ hj.le_top hj.bottom_le hlt]

/-- A value of at most 53 significant bits is not rounded. -/
theorem value_eq_of_correctlyRounded (h : correctlyRounded x r) (hf : f64IsFinite r = true)
    {m e : Nat} (hm : m < 2 ^ 53) (hx : |x| * (f64Scale : ℝ) = (m * 2 ^ e : Nat)) :
    (f64Value r : ℝ) = x := by
  obtain ⟨q, j, hj, hdist⟩ := dist_le_of_correctlyRounded h hf
  have hgrid := (hj.nearest (hx ▸ onGrid_significand hm e q)).1
  rw [sub_self, abs_zero] at hgrid
  have hzero : |(f64Value r : ℝ) - x| ≤ 0 :=
    hdist.trans (div_nonpos_of_nonpos_of_nonneg hgrid f64Scale_real_pos.le)
  exact sub_eq_zero.1 (abs_nonpos_iff.1 hzero)

/-- Below 2^200 a correctly rounded result is finite. -/
theorem isFinite_of_correctlyRounded (h : correctlyRounded x r) (hx : |x| < 2 ^ 200) :
    f64IsFinite r = true := by
  by_contra hinf
  have hbig := (h.2 (Bool.eq_false_of_not_eq_true hinf)).2.2
  have h1024 : (2 : ℝ) ^ 1024 = 2 * 2 ^ 1023 := pow_succ' 2 1023
  have h970 : (2 : ℝ) ^ 970 ≤ 2 ^ 1023 := pow_le_pow_right₀ one_le_two (by decide)
  have h200 : (2 : ℝ) ^ 200 ≤ 2 ^ 1023 := pow_le_pow_right₀ one_le_two (by decide)
  have hlt := hx.trans_le h200
  rw [h1024] at hbig
  generalize (2 : ℝ) ^ 1023 = u at *
  generalize (2 : ℝ) ^ 970 = v at *
  linarith only [hbig, hlt, h970]

/-- r is finite and holds x but for half a last place: 2^-53 of x, or less than 2^-200 where the
last place can shrink no more. -/
structure Rounded (x : ℝ) (r : B64) : Prop where
  finite : f64IsFinite r = true
  near : |(f64Value r : ℝ) - x| ≤ |x| / 2 ^ 53 + 1 / 2 ^ 200

theorem rounded_of_correctlyRounded (h : correctlyRounded x r) (hx : |x| < 2 ^ 200) :
    Rounded x r := by
  have hf := isFinite_of_correctlyRounded h hx
  obtain ⟨q, j, hj, hdist⟩ := dist_le_of_correctlyRounded h hf
  have hS := f64Scale_real_pos
  have hunit : 1 / (f64Scale : ℝ) ≤ 1 / 2 ^ 200 :=
    one_div_le_one_div_of_le (by positivity) (by exact_mod_cast two_pow_le_f64Scale (by decide))
  have hhalf : |(j : ℝ) * 2 ^ q - |x| * (f64Scale : ℝ)| ≤ |x| * (f64Scale : ℝ) / 2 ^ 53 + 1 := by
    have hnear := hj.near
    rcases hj.place with rfl | hplace
    · have := div_nonneg hj.nonneg (by positivity : (0 : ℝ) ≤ 2 ^ 53)
      rw [pow_zero] at hnear ⊢
      linarith
    · rw [pow_add] at hplace
      have h53 : (2 : ℝ) ^ 53 = 2 * 2 ^ 52 := by norm_num
      have : (2 : ℝ) ^ q / 2 ≤ |x| * (f64Scale : ℝ) / 2 ^ 53 := by
        rw [h53, div_le_div_iff₀ two_pos (by positivity)]
        linarith
      linarith
  refine ⟨hf, hdist.trans ?_⟩
  calc |(j : ℝ) * 2 ^ q - |x| * (f64Scale : ℝ)| / (f64Scale : ℝ)
      ≤ (|x| * (f64Scale : ℝ) / 2 ^ 53 + 1) / (f64Scale : ℝ) := by gcongr
    _ = |x| / 2 ^ 53 + 1 / (f64Scale : ℝ) := by field_simp
    _ ≤ |x| / 2 ^ 53 + 1 / 2 ^ 200 := by gcongr

/-! ## The operations -/

/-- An integer of at most 53 bits is a datum. -/
theorem f64OfInt_exact {n : Nat} (hn : n < 2 ^ 53) :
    f64IsFinite (f64OfInt n) = true ∧ (f64Value (f64OfInt n) : ℝ) = n := by
  have h := f64OfInt_correctlyRounded (Int.natCast_nonneg n)
  rw [Int.cast_natCast] at h
  have hR : (n : ℝ) < 2 ^ 53 := by exact_mod_cast hn
  have hf := isFinite_of_correctlyRounded h (by
    rw [Nat.abs_cast]; exact hR.trans (pow_lt_pow_right₀ one_lt_two (by decide)))
  refine ⟨hf, value_eq_of_correctlyRounded h hf hn (e := 1074) ?_⟩
  have hpow : f64Scale = 2 ^ 1074 → |(n : ℝ)| * (f64Scale : ℝ) = (n * 2 ^ 1074 : Nat) := by
    intro hS
    rw [hS, Nat.abs_cast, Nat.cast_mul]
  exact hpow f64Scale_eq

/-- A datum whose value is positive is not a zero and has its sign bit clear. -/
theorem plus_of_value_pos (h : 0 < (f64Value a : ℝ)) :
    f64IsZero a = false ∧ f64Sign a = false := by
  constructor
  · by_contra hz
    rw [f64Value_of_isZero (Bool.eq_true_of_not_eq_false hz), Rat.cast_zero] at h
    exact h.false
  · by_contra hs
    rw [f64Value_signed, Bool.eq_true_of_not_eq_false hs] at h
    have : 0 ≤ (f64Mag a : ℝ) / (f64Scale : ℝ) := by positivity
    exact absurd h (not_lt.2 (neg_nonpos.2 this))

section
variable (ha : f64IsFinite a = true) (hb : f64IsFinite b = true)
include ha hb

theorem rounded_add (h : |(f64Value a : ℝ) + f64Value b| < 2 ^ 200) :
    Rounded ((f64Value a : ℝ) + f64Value b) (f64Add a b) :=
  rounded_of_correctlyRounded (correctlyRounded_add ha hb) h

theorem rounded_sub (h : |(f64Value a : ℝ) - f64Value b| < 2 ^ 200) :
    Rounded ((f64Value a : ℝ) - f64Value b) (f64Sub a b) :=
  rounded_of_correctlyRounded (correctlyRounded_sub ha hb) h

theorem rounded_mul (h : |(f64Value a : ℝ) * f64Value b| < 2 ^ 200) :
    Rounded ((f64Value a : ℝ) * f64Value b) (f64Mul a b) :=
  rounded_of_correctlyRounded (correctlyRounded_mul ha hb) h

theorem rounded_div (hpos : 0 < (f64Value b : ℝ)) (h : |(f64Value a : ℝ) / f64Value b| < 2 ^ 200) :
    Rounded ((f64Value a : ℝ) / f64Value b) (f64Div a b) :=
  rounded_of_correctlyRounded (correctlyRounded_div ha hb (plus_of_value_pos hpos).1) h

end

theorem rounded_sqrt (ha : f64IsFinite a = true) (hpos : 0 < (f64Value a : ℝ))
    (h : |√(f64Value a : ℝ)| < 2 ^ 200) : Rounded (√(f64Value a : ℝ)) (f64Sqrt a) :=
  rounded_of_correctlyRounded (correctlyRounded_sqrt ha (.inr (plus_of_value_pos hpos).2)) h

/-- The square of a rounding. -/
theorem Rounded.sq (h : Rounded x r) (hx : |x| ≤ 2 ^ 10) :
    |(f64Value r : ℝ) ^ 2 - x ^ 2| ≤ 3 / 2 ^ 53 * x ^ 2 + 1 / 2 ^ 180 := by
  have hx0 := abs_nonneg x
  have hnear := h.near
  have hsum : |(f64Value r : ℝ) + x| ≤ 2 * |x| + (|x| / 2 ^ 53 + 1 / 2 ^ 200) := by
    have e : (f64Value r : ℝ) + x = (f64Value r - x) + 2 * x := by ring
    rw [e]
    refine (abs_add_le _ _).trans ?_
    rw [abs_mul, abs_two]
    linarith
  have e : (f64Value r : ℝ) ^ 2 - x ^ 2 = (f64Value r - x) * (f64Value r + x) := by ring
  rw [e, abs_mul, ← sq_abs x]
  generalize |x| = t at *
  refine (mul_le_mul hnear hsum (abs_nonneg _) (by positivity)).trans ?_
  nlinarith

end Sys2Proof.Machine
end

section
/-!
SUPPORT. The Hann shape in NUM_B64 (40_config.md R107): cos stays in [-1, 1] and is not positive
near pi, so that the shape is bounded and large in the middle of the block.
-/

namespace Sys2Proof.Machine

open Sys2Proof.Claims

variable {a : B64} {b n : Nat}

/-! ## cos -/

/-- A finite datum of [-1, 1]. -/
def F64WithinOne (x : B64) : Prop := f64IsFinite x = true ∧ |(f64Value x : ℝ)| ≤ 1

theorem f64WithinOne_make (s : Bool) {m : Nat} (h : m ≤ f64One.toNat) :
    F64WithinOne (f64Make s m) := by
  have hm : m ≤ 1023 * 2 ^ 52 := h
  have hmag : f64Mag (f64Make s m) ≤ f64Scale := by
    refine le_trans (le_of_eq ?_) (f64Mag_make_le h)
    simp only [f64Mag, f64Exponent_make _ (show m < 2 ^ 63 by omega),
      f64Fraction_make _ (show m < 2 ^ 63 by omega)]
  refine ⟨f64IsFinite_make s (by omega), ?_⟩
  rw [f64Value_signed, abs_signed, abs_of_nonneg (by positivity), div_le_one f64Scale_real_pos]
  exact_mod_cast hmag

/-- cos of a finite datum is finite and never outside [-1, 1]. -/
theorem f64WithinOne_cos (ha : f64IsFinite a = true) : F64WithinOne (f64Cos a) := by
  have hone : F64WithinOne f64One := f64One_eq_make ▸ f64WithinOne_make false le_rfl
  have hneg : F64WithinOne (f64Neg f64One) := by
    rw [F64WithinOne, f64IsFinite_neg, f64Value_neg, abs_neg]
    exact hone
  rw [f64Cos, f64IsNaN_of_finite ha, f64IsInf_of_finite ha, if_neg (by decide)]
  split_ifs
  · exact hone
  · exact hneg
  · exact f64WithinOne_make _ (Nat.min_le_right _ _)
  · exact f64WithinOne_make _ (Nat.le_of_lt_succ (Nat.mod_lt _ (Nat.succ_pos _)))

theorem f64Sign_pack (s : Bool) (q k : Nat) : f64Sign (f64Pack s q k) = s := by
  rcases f64Pack_cases s q k with ⟨hlt, e⟩ | ⟨_, e⟩ <;> rw [e]
  · exact f64Sign_make s (by omega)
  · exact f64Sign_inf s

theorem value_nonpos_of_sign (h : f64Sign a = true) : (f64Value a : ℝ) ≤ 0 := by
  rw [f64Value_signed, h]
  exact neg_nonpos.2 (unitsReal_nonneg _)

/-- The real cos from 2 to 3.2 is far below 0. -/
theorem cos_le_of_mem {x : ℝ} (h2 : 2 ≤ x) (h3 : x ≤ 3.2) : Real.cos x ≤ -1 / 4 := by
  have hshift : Real.cos (x - Real.pi) = -Real.cos x := Real.cos_sub_pi x
  have hnear := Real.one_sub_sq_div_two_le_cos (x := x - Real.pi)
  have hlo := Real.pi_gt_d2
  have hhi := Real.pi_lt_d2
  rw [hshift] at hnear
  nlinarith

/-- cos near pi has its sign bit set, however the last places fall. -/
theorem value_cos_nonpos (ha : f64IsFinite a = true) (h2 : 2 ≤ (f64Value a : ℝ))
    (h3 : (f64Value a : ℝ) ≤ 3.2) : (f64Value (f64Cos a) : ℝ) ≤ 0 := by
  obtain ⟨hz, hs⟩ := plus_of_value_pos (show 0 < (f64Value a : ℝ) by linarith)
  have hv : (f64Value a : ℝ) = unitsReal (f64Mag a) := by
    rw [f64Value_signed, hs]
    rfl
  have hmag : f64Mag a ≤ 8 * f64Scale := by
    have hle : (f64Mag a : ℝ) / (f64Scale : ℝ) ≤ 8 := by
      rw [← unitsReal, ← hv]
      linarith
    rw [div_le_iff₀ f64Scale_real_pos] at hle
    exact_mod_cast hle
  have hneg : cosSeries (f64Mag a) < 0 := by
    have hclose := (abs_le.1 (cosSeries_close hmag)).2
    have hcos := cos_le_of_mem (hv ▸ h2) (hv ▸ h3)
    have hone : (0 : ℝ) < (trigOne : ℝ) := by norm_num [trigOne]
    have hsmall : (1 : ℝ) / 2 ^ 180 < 1 / 4 := by norm_num
    have hquot : (cosSeries (f64Mag a) : ℝ) / (trigOne : ℝ) < 0 := by linarith
    rw [div_lt_iff₀ hone, zero_mul] at hquot
    exact_mod_cast hquot
  have hsign : f64Sign (f64CosNearest a) = true := by
    rw [f64CosNearest, decide_eq_true hneg]
    exact f64Sign_pack _ _ _
  have h8 : f64UpToEight a = true := decide_eq_true hmag
  rw [f64Cos, f64IsNaN_of_finite ha, f64IsInf_of_finite ha, hz, h8, f64Nudge, hsign]
  simp only [Bool.or_self, Bool.false_eq_true, if_false, if_true]
  apply value_nonpos_of_sign
  split_ifs
  · decide
  · refine f64Sign_make true (lt_of_le_of_lt (Nat.min_le_right _ _) (by decide))

/-! ## The argument of cos -/

/-- The constant 2 * pi of the shape. -/
theorem two_pi_bounds : f64IsFinite (f64Mul f64Two f64Pi) = true ∧
    628 / 100 < f64Value (f64Mul f64Two f64Pi) ∧ f64Value (f64Mul f64Two f64Pi) < 629 / 100 := by
  decide +kernel

/-- The argument of cos in the shape, (2 * pi * n) / b. -/
def hannAngle (b n : Nat) : B64 := f64Div (f64Mul (f64Mul f64Two f64Pi) (f64OfInt n)) (f64OfInt b)

theorem hannShape_numB64 (b n : Nat) : hannShape numB64 b n
    = f64Sub f64Half (f64Mul f64Half (f64Cos (hannAngle b n))) := by
  rw [hannShape, hannAngle, numB64_sub, numB64_half, numB64_mul, numB64_cos, numB64_div, numB64_two,
    numB64_pi, numB64_ofInt]

/-- The product 2 * pi * n. -/
theorem two_pi_mul_bounds (hn : n < 2 ^ 17) :
    f64IsFinite (f64Mul (f64Mul f64Two f64Pi) (f64OfInt n)) = true ∧
    62 / 10 * (n : ℝ) - 1 / 2 ^ 200 ≤ f64Value (f64Mul (f64Mul f64Two f64Pi) (f64OfInt n)) ∧
    (f64Value (f64Mul (f64Mul f64Two f64Pi) (f64OfInt n)) : ℝ) ≤ 63 / 10 * n + 1 / 2 ^ 200 := by
  obtain ⟨hf, hlo, hhi⟩ := two_pi_bounds
  obtain ⟨hnf, hnv⟩ := f64OfInt_exact (n := n) (by omega)
  replace hlo := Rat.cast_lt (K := ℝ).2 hlo
  replace hhi := Rat.cast_lt (K := ℝ).2 hhi
  push_cast at hlo hhi
  generalize f64Mul f64Two f64Pi = c at *
  have hnR : (n : ℝ) < 2 ^ 17 := by exact_mod_cast hn
  have hn0 : (0 : ℝ) ≤ n := Nat.cast_nonneg n
  have hxlo : 628 / 100 * (n : ℝ) ≤ f64Value c * n := by gcongr
  have hxhi : f64Value c * (n : ℝ) ≤ 629 / 100 * n := by gcongr
  have hx0 : |(f64Value c : ℝ) * n| = f64Value c * n := abs_of_nonneg (by linarith)
  have h := rounded_mul hf hnf
  rw [hnv, hx0] at h
  obtain ⟨hfin, hnear⟩ := h (by linarith)
  rw [hx0, abs_le] at hnear
  exact ⟨hfin, by linarith [hnear.1], by linarith [hnear.2]⟩

/-- In the middle of the block the argument is near pi; everywhere it is finite. -/
theorem hannAngle_bounds (hb : 2 ≤ b) (hcap : b < 2 ^ 17) (hn : n < b) :
    f64IsFinite (hannAngle b n) = true ∧
    (b ≤ 3 * n → 2 * n ≤ b →
      2 ≤ (f64Value (hannAngle b n) : ℝ) ∧ (f64Value (hannAngle b n) : ℝ) ≤ 3.2) := by
  obtain ⟨hpf, hplo, hphi⟩ := two_pi_mul_bounds (hn.trans hcap)
  obtain ⟨hbf, hbv⟩ := f64OfInt_exact (n := b) (by omega)
  have hbR : (2 : ℝ) ≤ b := by exact_mod_cast hb
  have hnR : (n : ℝ) ≤ b := by exact_mod_cast hn.le
  have hn0 : (0 : ℝ) ≤ n := Nat.cast_nonneg n
  have hb0 : (0 : ℝ) < b := by linarith
  have h := rounded_div hpf hbf (by rwa [hbv])
  rw [hbv] at h
  rw [hannAngle]
  generalize (f64Value (f64Mul (f64Mul f64Two f64Pi) (f64OfInt n)) : ℝ) = p at *
  have hxlo : -1 ≤ p / b := by rw [le_div_iff₀ hb0]; linarith
  have hxhi : p / b ≤ 7 := by rw [div_le_iff₀ hb0]; linarith
  have hxabs : |p / b| ≤ 7 := abs_le.2 ⟨by linarith, hxhi⟩
  obtain ⟨hfin, hnear⟩ := h (by linarith)
  refine ⟨hfin, fun h3 h2 => ?_⟩
  have h3R : (b : ℝ) ≤ 3 * n := by exact_mod_cast h3
  have h2R : 2 * (n : ℝ) ≤ b := by exact_mod_cast h2
  have hlo : 205 / 100 ≤ p / b := by rw [le_div_iff₀ hb0]; linarith
  have hhi : p / b ≤ 316 / 100 := by rw [div_le_iff₀ hb0]; linarith
  obtain ⟨hnlo, hnhi⟩ := abs_le.1 hnear
  exact ⟨by linarith, by linarith⟩

/-! ## The shape -/

theorem half_value : f64IsFinite f64Half = true ∧ f64Value f64Half = 1 / 2 := by decide +kernel

theorem half_value_real : (f64Value f64Half : ℝ) = 1 / 2 := by
  rw [half_value.2]
  norm_num

/-- Half of cos, in the shape. -/
theorem half_mul_close (hc : F64WithinOne a) : f64IsFinite (f64Mul f64Half a) = true ∧
    |(f64Value (f64Mul f64Half a) : ℝ) - 1 / 2 * f64Value a| ≤ 1 / 2 ^ 50 := by
  have hhalf : |(1 / 2 : ℝ) * f64Value a| ≤ 1 / 2 := by
    rw [abs_mul, abs_of_pos one_half_pos]
    linarith [hc.2]
  have h := rounded_mul half_value.1 hc.1
  rw [half_value_real] at h
  obtain ⟨hf, hnear⟩ := h (by linarith)
  exact ⟨hf, by linarith⟩

/-- What is left of a half, in the shape. -/
theorem half_sub_close (hf : f64IsFinite a = true) (ha : |(f64Value a : ℝ)| ≤ 1) :
    f64IsFinite (f64Sub f64Half a) = true ∧
    |(f64Value (f64Sub f64Half a) : ℝ) - (1 / 2 - f64Value a)| ≤ 1 / 2 ^ 50 := by
  obtain ⟨hlo, hhi⟩ := abs_le.1 ha
  have hdiff : |1 / 2 - (f64Value a : ℝ)| ≤ 3 / 2 := abs_le.2 ⟨by linarith, by linarith⟩
  have h := rounded_sub half_value.1 hf
  rw [half_value_real] at h
  obtain ⟨hsf, hnear⟩ := h (by linarith)
  exact ⟨hsf, by linarith⟩

/-- The shape is bounded, and not small in the middle of the block. -/
theorem hannShape_bounds (hb : 2 ≤ b) (hcap : b < 2 ^ 17) (hn : n < b) :
    f64IsFinite (hannShape numB64 b n) = true ∧ |(f64Value (hannShape numB64 b n) : ℝ)| ≤ 2 ∧
    (b ≤ 3 * n → 2 * n ≤ b → 2 / 5 ≤ (f64Value (hannShape numB64 b n) : ℝ)) := by
  obtain ⟨haf, hmiddle⟩ := hannAngle_bounds hb hcap hn
  have hcos := f64WithinOne_cos haf
  obtain ⟨hclo, hchi⟩ := abs_le.1 hcos.2
  obtain ⟨hpf, hp⟩ := half_mul_close hcos
  obtain ⟨hplo, hphi⟩ := abs_le.1 hp
  obtain ⟨hsf, hs⟩ := half_sub_close hpf (abs_le.2 ⟨by linarith, by linarith⟩)
  obtain ⟨hslo, hshi⟩ := abs_le.1 hs
  rw [hannShape_numB64]
  refine ⟨hsf, abs_le.2 ⟨by linarith, by linarith⟩, fun h3 h2 => ?_⟩
  linarith [value_cos_nonpos haf (hmiddle h3 h2).1 (hmiddle h3 h2).2]

/-- At the first place, where cos is 1, the shape is +0. -/
theorem hannShape_zero (hb : 0 < b) (hcap : b < 2 ^ 53) : hannShape numB64 b 0 = 0#64 := by
  obtain ⟨hbf, hbv⟩ := f64OfInt_exact hcap
  have hpos : (0 : ℝ) < f64Value (f64OfInt b) := by rw [hbv]; exact_mod_cast hb
  have hprod : f64Mul (f64Mul f64Two f64Pi) (f64OfInt 0) = 0#64 := by decide +kernel
  have hzero : f64IsZero (hannAngle b 0) = true := by
    rw [hannAngle, Nat.cast_zero, hprod]
    exact f64IsZero_div ⟨by decide, by decide⟩ (by decide) ⟨f64IsNaN_of_finite hbf,
      (plus_of_value_pos hpos).2⟩ (plus_of_value_pos hpos).1
  have hfin := f64IsFinite_of_isZero hzero
  have hcos : f64Cos (hannAngle b 0) = f64One := by
    rw [f64Cos, f64IsNaN_of_finite hfin, f64IsInf_of_finite hfin, hzero]
    rfl
  rw [hannShape_numB64, hcos]
  decide +kernel

end Sys2Proof.Machine
end

section
/-!
SUPPORT. The default window is normalised (40_config.md R106, R107): exactly over the reals, and in
NUM_B64 up to the rounding of the sum of squares, the scale and the quotients, whatever the shape is
as long as its sum of squares is not small.
-/

namespace Sys2Proof.Machine

open Sys2Proof.Claims

variable {b : Nat} {g : B64}

/-! ## The generator over the reals -/

theorem foldl_sumSquares_numReal (l : List ℝ) : ∀ s : ℝ,
    l.foldl (fun s x => numReal.add s (numReal.mul x x)) s = s + (l.map fun x => x ^ 2).sum := by
  induction l with
  | nil => simp
  | cons x l ih =>
    intro s
    rw [List.foldl_cons, ih, List.map_cons, List.sum_cons, numReal_add, numReal_mul, ← sq,
      add_assoc]

theorem sumSquares_numReal (l : List ℝ) :
    sumSquares numReal l = (l.map fun x => x ^ 2).sum := by
  cases l with
  | nil => simp [sumSquares]
  | cons x l =>
    rw [sumSquares, foldl_sumSquares_numReal, List.map_cons, List.sum_cons, numReal_mul, sq]

theorem sum_sq_div (l : List ℝ) (g : ℝ) :
    ((l.map fun x => x / g).map fun w => w ^ 2).sum = (l.map fun x => x ^ 2).sum / g ^ 2 := by
  rw [List.map_map, div_eq_mul_inv, ← List.sum_map_mul_right]
  congr 1
  refine List.map_congr_left fun x _ => ?_
  rw [Function.comp_apply, div_pow, div_eq_mul_inv]

/-- A sum of squares is at least each of them. -/
theorem sq_le_sum_sq {α : Type} (f : α → ℝ) {l : List α} {x : α} (hx : x ∈ l) :
    f x ^ 2 ≤ (l.map fun x => f x ^ 2).sum :=
  List.single_le_sum (by simpa using fun a _ => sq_nonneg (f a)) _
    (List.mem_map_of_mem (f := fun x => f x ^ 2) hx)

/-- The second value of the shape is not 0. -/
theorem hannShape_numReal_one_pos (hb : 2 ≤ b) : 0 < hannShape numReal b 1 := by
  have hbR : (2 : ℝ) ≤ b := by exact_mod_cast hb
  have hpi := Real.pi_pos
  have hle : 2 * Real.pi / b ≤ Real.pi := by
    rw [div_le_iff₀ (by linarith)]
    nlinarith
  have hcos := Real.cos_lt_cos_of_nonneg_of_le_pi le_rfl hle (by positivity)
  rw [Real.cos_zero] at hcos
  have e : hannShape numReal b 1 = 1 / 2 - 1 / 2 * Real.cos (2 * Real.pi / b) := by
    simp [hannShape]
  rw [e]
  linarith

/-- Over the reals the scale's square is the scaled sum itself (40_config.md R106). -/
theorem winNormalised_numReal : WinNormalised (winDefault numReal) := by
  intro b hb
  refine ⟨winDefault_length _ _ _, ?_⟩
  have hN : (0 : ℝ) < nextPow2 b := by
    have := le_nextPow2 b
    exact_mod_cast (by omega : 0 < nextPow2 b)
  have hbR : (0 : ℝ) < b := by exact_mod_cast (by omega : 0 < b)
  have hmem : hannShape numReal b 1 ∈ (List.range b).map (hannShape numReal b) :=
    List.mem_map_of_mem (List.mem_range.2 (by omega))
  have hpos := (pow_pos (hannShape_numReal_one_pos hb) 2).trans_le (sq_le_sum_sq (fun x => x) hmem)
  simp only [winDefault, sumSquares_numReal, numReal_div, numReal_sqrt, numReal_mul, numReal_ofInt,
    Int.cast_natCast]
  rw [sum_sq_div, Real.sq_sqrt (by positivity)]
  field_simp

/-! ## The sum of squares in NUM_B64 -/

/-- The sum of the squares of a list of data, exactly. -/
noncomputable def sqSum (l : List B64) : ℝ := (l.map fun x => (f64Value x : ℝ) ^ 2).sum

theorem sqSum_cons (x : B64) (l : List B64) : sqSum (x :: l) = (f64Value x : ℝ) ^ 2 + sqSum l := by
  rw [sqSum, List.map_cons, List.sum_cons, sqSum]

theorem sqSum_nonneg (l : List B64) : 0 ≤ sqSum l :=
  List.sum_nonneg (by simpa using fun a _ => sq_nonneg (f64Value a : ℝ))

/-- The list is finite, at most 2 in magnitude. -/
def UpToTwo (l : List B64) : Prop := ∀ x ∈ l, f64IsFinite x = true ∧ |(f64Value x : ℝ)| ≤ 2

/-- One square, and its rounding. -/
theorem sq_bounds {x : B64} (hf : f64IsFinite x = true) (hx : |(f64Value x : ℝ)| ≤ 2) :
    Rounded ((f64Value x : ℝ) ^ 2) (f64Mul x x) ∧ (f64Value x : ℝ) ^ 2 ≤ 4 := by
  have h4 : (f64Value x : ℝ) ^ 2 ≤ 4 := by
    rw [← sq_abs]
    nlinarith [abs_nonneg (f64Value x : ℝ)]
  have h := rounded_mul hf hf
  rw [← sq, abs_of_nonneg (sq_nonneg _)] at h
  exact ⟨h (by linarith), h4⟩

theorem sqSum_le {l : List B64} (h : UpToTwo l) : sqSum l ≤ 4 * l.length := by
  induction l with
  | nil => simp [sqSum]
  | cons x l ih =>
    obtain ⟨hx, hl⟩ := List.forall_mem_cons.1 h
    rw [sqSum_cons, List.length_cons]
    push_cast
    linarith [ih hl, (sq_bounds hx.1 hx.2).2]

/-- One square added to a sum that is off by k roundings is off by one more. -/
theorem sumSquares_step {s x : B64} {A T k : ℝ} (hs : f64IsFinite s = true)
    (hx : f64IsFinite x = true ∧ |(f64Value x : ℝ)| ≤ 2) (hA : 0 ≤ A)
    (hk : k ≤ 2 ^ 16) (hT : 1 / 8 ≤ T) (hcap : T ≤ 2 ^ 20) (hsum : A + (f64Value x : ℝ) ^ 2 ≤ T)
    (hnear : |(f64Value s : ℝ) - A| ≤ k * (T / 2 ^ 51)) :
    f64IsFinite (f64Add s (f64Mul x x)) = true ∧
    |(f64Value (f64Add s (f64Mul x x)) : ℝ) - (A + (f64Value x : ℝ) ^ 2)|
      ≤ (k + 1) * (T / 2 ^ 51) := by
  obtain ⟨⟨hpf, hpnear⟩, h4⟩ := sq_bounds hx.1 hx.2
  have hsq := sq_nonneg (f64Value x : ℝ)
  rw [abs_of_nonneg hsq] at hpnear
  have hoff : k * (T / 2 ^ 51) ≤ 2 ^ 16 * (T / 2 ^ 51) := by gcongr
  have hadd := rounded_add hs hpf
  generalize (f64Value x : ℝ) ^ 2 = v at *
  generalize (f64Value (f64Mul x x) : ℝ) = p at *
  generalize (f64Value s : ℝ) = t at *
  obtain ⟨hslo, hshi⟩ := abs_le.1 hnear
  obtain ⟨hplo, hphi⟩ := abs_le.1 hpnear
  have hexact : |t + p| ≤ 5 / 4 * T := abs_le.2 ⟨by linarith, by linarith⟩
  obtain ⟨hf, hr⟩ := hadd (by linarith)
  refine ⟨hf, ?_⟩
  obtain ⟨hrlo, hrhi⟩ := abs_le.1 hr
  rw [add_mul, one_mul]
  exact abs_le.2 ⟨by linarith, by linarith⟩

/-- After k squares the loop is k roundings off the sum A so far. -/
theorem foldl_sumSquares_close {T : ℝ} (hT : 1 / 8 ≤ T) (hcap : T ≤ 2 ^ 20) (l : List B64) :
    ∀ (s : B64) (A : ℝ) (k : Nat), f64IsFinite s = true → UpToTwo l → 0 ≤ A →
      k + l.length ≤ 2 ^ 16 → A + sqSum l ≤ T → |(f64Value s : ℝ) - A| ≤ k * (T / 2 ^ 51) →
      f64IsFinite (l.foldl (fun s x => f64Add s (f64Mul x x)) s) = true ∧
      |(f64Value (l.foldl (fun s x => f64Add s (f64Mul x x)) s) : ℝ) - (A + sqSum l)|
        ≤ 2 ^ 16 * (T / 2 ^ 51) := by
  induction l with
  | nil =>
    intro s A k hs _ hA hk hsum hnear
    have hkR : (k : ℝ) ≤ 2 ^ 16 := by exact_mod_cast hk
    refine ⟨hs, ?_⟩
    rw [List.foldl_nil, sqSum, List.map_nil, List.sum_nil, add_zero]
    exact hnear.trans (by gcongr)
  | cons x l ih =>
    intro s A k hs hl hA hk hsum hnear
    obtain ⟨hx, hl⟩ := List.forall_mem_cons.1 hl
    rw [List.length_cons] at hk
    rw [sqSum_cons, ← add_assoc] at hsum
    have hkR : (k : ℝ) ≤ 2 ^ 16 := by exact_mod_cast (by omega : k ≤ 2 ^ 16)
    obtain ⟨hf, hstep⟩ := sumSquares_step hs hx hA hkR hT hcap
      (by linarith [sqSum_nonneg l]) hnear
    rw [List.foldl_cons, sqSum_cons, ← add_assoc]
    exact ih _ _ (k + 1) hf hl (by positivity) (by omega) hsum (by exact_mod_cast hstep)

/-- Up to 65536 squares sum within 2^-35 of their sum. -/
theorem sumSquares_close {l : List B64} (hl : UpToTwo l) (hlen : l.length ≤ 2 ^ 16)
    (hlo : 1 / 8 ≤ sqSum l) :
    f64IsFinite (sumSquares numB64 l) = true ∧
    |(f64Value (sumSquares numB64 l) : ℝ) - sqSum l| ≤ sqSum l / 2 ^ 35 := by
  have hcap : sqSum l ≤ 2 ^ 20 := by
    have hlenR : (l.length : ℝ) ≤ 2 ^ 16 := by exact_mod_cast hlen
    have := sqSum_le hl
    linarith
  cases l with
  | nil => norm_num [sqSum] at hlo
  | cons x l =>
    obtain ⟨hx, hl'⟩ := List.forall_mem_cons.1 hl
    obtain ⟨⟨hpf, hpnear⟩, h4⟩ := sq_bounds hx.1 hx.2
    have hsq := sq_nonneg (f64Value x : ℝ)
    rw [abs_of_nonneg hsq] at hpnear
    have htotal := sqSum_cons x l
    have hstart : |(f64Value (f64Mul x x) : ℝ) - (f64Value x : ℝ) ^ 2|
        ≤ (1 : Nat) * (sqSum (x :: l) / 2 ^ 51) := by
      have := sqSum_nonneg l
      rw [Nat.cast_one, one_mul]
      linarith
    obtain ⟨hf, hclose⟩ := foldl_sumSquares_close hlo hcap l _ _ 1 hpf hl' hsq
      (by rw [List.length_cons] at hlen; omega) htotal.symm.le hstart
    rw [← htotal] at hclose
    refine ⟨hf, hclose.trans (le_of_eq ?_)⟩
    ring

/-! ## The scale and the quotients in NUM_B64 -/

/-- The scale of the window for the sum of squares s (40_config.md R107, g). -/
def winScale (b N : Nat) (s : B64) : B64 := f64Sqrt (f64Mul (f64Div (f64OfInt b) (f64OfInt N)) s)

/-- A product of two factors, each a little off. -/
theorem mul_close_of_factors {κ S d s : ℝ} (hκ : 1 / 2 ≤ κ) (hS : 0 ≤ S)
    (hd : |d - κ| ≤ κ / 2 ^ 53 + 1 / 2 ^ 200) (hs : |s - S| ≤ S / 2 ^ 35) :
    |d * s - κ * S| ≤ κ * S / 2 ^ 34 := by
  have hsabs : |s| ≤ 2 * S := by
    obtain ⟨hlo, hhi⟩ := abs_le.1 hs
    exact abs_le.2 ⟨by linarith, by linarith⟩
  have e : d * s - κ * S = (d - κ) * s + κ * (s - S) := by ring
  have hκ0 : 0 ≤ κ := by linarith
  calc |d * s - κ * S| ≤ |d - κ| * |s| + κ * |s - S| := by
        rw [e, ← abs_mul]
        exact (abs_add_le _ _).trans (by rw [abs_mul κ, abs_of_nonneg hκ0])
    _ ≤ κ / 2 ^ 52 * (2 * S) + κ * (S / 2 ^ 35) := by
        gcongr
        linarith
    _ ≤ κ * S / 2 ^ 34 := by linarith [mul_nonneg hκ0 hS]

/-- The square of a root is the radicand but for the rounding. -/
theorem sqrt_close {m : B64} {K : ℝ} (hK : 1 / 16 ≤ K) (hK2 : K ≤ 2 ^ 18)
    (hf : f64IsFinite m = true) (hm : |(f64Value m : ℝ) - K| ≤ 3 / 2 ^ 35 * K) :
    f64IsFinite (f64Sqrt m) = true ∧ 1 / 5 ≤ (f64Value (f64Sqrt m) : ℝ) ∧
    |(f64Value (f64Sqrt m) : ℝ) ^ 2 - K| ≤ K / 2 ^ 33 := by
  obtain ⟨hmlo, hmhi⟩ := abs_le.1 hm
  have hm0 : 6 / 100 ≤ (f64Value m : ℝ) := by linarith
  have hrlo : 24 / 100 ≤ √(f64Value m : ℝ) := Real.le_sqrt_of_sq_le (by linarith)
  have hrhi : √(f64Value m : ℝ) ≤ 2 ^ 10 := Real.sqrt_le_iff.2 ⟨by norm_num, by linarith⟩
  have hrabs : |√(f64Value m : ℝ)| = √(f64Value m : ℝ) := abs_of_nonneg (Real.sqrt_nonneg _)
  have hg := rounded_sqrt hf (by linarith) (by linarith)
  have hsq := hg.sq (hrabs.trans_le hrhi)
  rw [Real.sq_sqrt (by linarith)] at hsq
  obtain ⟨hgf, hgnear⟩ := hg
  rw [hrabs] at hgnear
  obtain ⟨hglo, hghi⟩ := abs_le.1 hgnear
  obtain ⟨hsqlo, hsqhi⟩ := abs_le.1 hsq
  exact ⟨hgf, by linarith, abs_le.2 ⟨by linarith, by linarith⟩⟩

/-- N is the block size or less than twice as much. -/
theorem sizeRatio_bounds {b N : Nat} (hN : b ≤ N) (hN2 : N < 2 * b) :
    1 / 2 ≤ (b : ℝ) / N ∧ (b : ℝ) / N ≤ 1 := by
  have hN0 : (0 : ℝ) < N := by exact_mod_cast (by omega : 0 < N)
  have hN2R : (N : ℝ) ≤ 2 * b := by exact_mod_cast hN2.le
  refine ⟨?_, (div_le_one hN0).2 (by exact_mod_cast hN)⟩
  rw [div_le_div_iff₀ two_pos hN0]
  linarith

/-- The square of the scale, within 2^-33 of (b / N) S. -/
theorem winScale_close {b N : Nat} {s : B64} {S : ℝ} (hcap : b ≤ 2 ^ 16) (hN : b ≤ N)
    (hN2 : N < 2 * b) (hs : f64IsFinite s = true) (hS : 1 / 8 ≤ S) (hS2 : S ≤ 2 ^ 18)
    (hnear : |(f64Value s : ℝ) - S| ≤ S / 2 ^ 35) :
    f64IsFinite (winScale b N s) = true ∧ 1 / 5 ≤ (f64Value (winScale b N s) : ℝ) ∧
    |(f64Value (winScale b N s) : ℝ) ^ 2 - b / N * S| ≤ b / N * S / 2 ^ 33 := by
  obtain ⟨hbf, hbv⟩ := f64OfInt_exact (n := b) (by omega)
  obtain ⟨hNf, hNv⟩ := f64OfInt_exact (n := N) (by omega)
  obtain ⟨hκlo, hκhi⟩ := sizeRatio_bounds hN hN2
  have hdiv := rounded_div hbf hNf (by rw [hNv]; exact_mod_cast (by omega : 0 < N))
  rw [hbv, hNv] at hdiv
  rw [winScale]
  generalize (b : ℝ) / N = κ at *
  have hκabs : |κ| = κ := abs_of_nonneg (by linarith)
  rw [hκabs] at hdiv
  obtain ⟨hdf, hdnear⟩ := hdiv (by linarith)
  rw [hκabs] at hdnear
  have hK : 1 / 16 ≤ κ * S := by nlinarith
  have hK2 : κ * S ≤ 2 ^ 18 := by nlinarith
  have hx := mul_close_of_factors hκlo (by linarith) hdnear hnear
  have hmul := rounded_mul hdf hs
  generalize (f64Value (f64Div (f64OfInt b) (f64OfInt N)) : ℝ) * f64Value s = x at hx hmul
  obtain ⟨hxlo, hxhi⟩ := abs_le.1 hx
  have hxabs : |x| = x := abs_of_nonneg (by linarith)
  rw [hxabs] at hmul
  obtain ⟨hmf, hmnear⟩ := hmul (by linarith)
  rw [hxabs] at hmnear
  obtain ⟨hmlo, hmhi⟩ := abs_le.1 hmnear
  exact sqrt_close hK hK2 hmf (abs_le.2 ⟨by linarith, by linarith⟩)

/-- The quotients by the scale: the sum of their squares is the quotient of the sum. -/
theorem sqSum_div_close (hg : f64IsFinite g = true) (hlo : 1 / 5 ≤ (f64Value g : ℝ))
    {l : List B64} (hl : UpToTwo l) :
    (∀ w ∈ l.map (f64Div · g), f64IsFinite w = true) ∧
    |sqSum (l.map (f64Div · g)) - sqSum l / (f64Value g : ℝ) ^ 2|
      ≤ 3 / 2 ^ 53 * (sqSum l / (f64Value g : ℝ) ^ 2) + l.length * (1 / 2 ^ 180) := by
  have hpos : (0 : ℝ) < f64Value g := by linarith
  induction l with
  | nil => simp [sqSum]
  | cons x l ih =>
    obtain ⟨⟨hxf, hx2⟩, hl⟩ := List.forall_mem_cons.1 hl
    obtain ⟨hfin, hclose⟩ := ih hl
    have hquot : |(f64Value x : ℝ) / f64Value g| ≤ 2 ^ 10 := by
      rw [abs_div, abs_of_pos hpos, div_le_iff₀ hpos]
      linarith
    have hr := rounded_div hxf hg hpos (by linarith)
    have hsq := hr.sq hquot
    rw [div_pow] at hsq
    refine ⟨List.forall_mem_cons.2 ⟨hr.finite, hfin⟩, ?_⟩
    rw [List.map_cons, sqSum_cons, sqSum_cons, add_div, List.length_cons, Nat.cast_add_one]
    obtain ⟨hclo, hchi⟩ := abs_le.1 hclose
    obtain ⟨hsqlo, hsqhi⟩ := abs_le.1 hsq
    exact abs_le.2 ⟨by linarith, by linarith⟩

/-! ## The window -/

/-- The shape of a block of b samples in NUM_B64. -/
def hannRow (b : Nat) : List B64 := (List.range b).map (hannShape numB64 b)

/-- Its scale. -/
def hannScale (b : Nat) : B64 := winScale b (nextPow2 b) (sumSquares numB64 (hannRow b))

theorem winDefault_numB64 (b : Nat) :
    winDefault numB64 b (nextPow2 b) = (hannRow b).map (f64Div · (hannScale b)) := by
  rw [winDefault, hannScale, winScale, hannRow, numB64_sqrt, numB64_mul, numB64_div, numB64_ofInt]

theorem hannRow_length (b : Nat) : (hannRow b).length = b := by simp [hannRow]

theorem hannRow_upToTwo (hb : 2 ≤ b) (hcap : b ≤ 2 ^ 16) : UpToTwo (hannRow b) := by
  intro x hx
  obtain ⟨n, hn, rfl⟩ := List.mem_map.1 hx
  obtain ⟨hf, habs, _⟩ := hannShape_bounds hb (by omega) (List.mem_range.1 hn)
  exact ⟨hf, habs⟩

/-- The middle of the block alone gives the shape its sum of squares. -/
theorem sqSum_hannRow (hb : 2 ≤ b) (hcap : b ≤ 2 ^ 16) : 1 / 8 ≤ sqSum (hannRow b) := by
  have hmem : hannShape numB64 b (b / 2) ∈ hannRow b :=
    List.mem_map_of_mem (List.mem_range.2 (by omega))
  obtain ⟨_, _, hmiddle⟩ := hannShape_bounds hb (by omega) (show b / 2 < b by omega)
  have hsq := sq_le_sum_sq (fun x : B64 => (f64Value x : ℝ)) hmem
  refine le_trans ?_ hsq
  nlinarith [hmiddle (by omega) (by omega)]

/-- What the scale is for a size up to the limit. -/
theorem hannScale_close (hb : 2 ≤ b) (hcap : b ≤ 2 ^ 16) :
    f64IsFinite (hannScale b) = true ∧ 1 / 5 ≤ (f64Value (hannScale b) : ℝ) ∧
    |(f64Value (hannScale b) : ℝ) ^ 2 - b / nextPow2 b * sqSum (hannRow b)|
      ≤ b / nextPow2 b * sqSum (hannRow b) / 2 ^ 33 := by
  have hlen : (hannRow b).length ≤ 2 ^ 16 := (hannRow_length b).trans_le hcap
  have hlenR : ((hannRow b).length : ℝ) ≤ 2 ^ 16 := by exact_mod_cast hlen
  have hlo := sqSum_hannRow hb hcap
  obtain ⟨hsf, hsclose⟩ := sumSquares_close (hannRow_upToTwo hb hcap) hlen hlo
  exact winScale_close hcap (le_nextPow2 b) (nextPow2_lt hb) hsf hlo
    (by linarith [sqSum_le (hannRow_upToTwo hb hcap)]) hsclose

/-- A scale whose square is K, the scaled sum, within 2^-33 normalises the quotients. -/
theorem normalised_of_close {κ S G W : ℝ} (hκ : 0 < κ) (hκ1 : κ ≤ 1) (hS : 0 < S)
    (hG : |G - κ * S| ≤ κ * S / 2 ^ 33)
    (hW : |W - S / G| ≤ 3 / 2 ^ 53 * (S / G) + 1 / 2 ^ 160) : |κ * W - 1| ≤ 1 / 2 ^ 30 := by
  have hK : 0 < κ * S := mul_pos hκ hS
  obtain ⟨hGlo, hGhi⟩ := abs_le.1 hG
  have hGpos : 0 < G := by linarith
  have hP : |κ * (S / G) - 1| ≤ 1 / 2 ^ 32 := by
    rw [← mul_div_assoc, div_sub_one hGpos.ne', abs_div, abs_of_pos hGpos, div_le_iff₀ hGpos,
      abs_sub_comm]
    linarith
  have hWκ : |κ * W - κ * (S / G)| ≤ 3 / 2 ^ 53 * (κ * (S / G)) + 1 / 2 ^ 160 := by
    rw [← mul_sub, abs_mul, abs_of_pos hκ]
    calc κ * |W - S / G| ≤ κ * (3 / 2 ^ 53 * (S / G) + 1 / 2 ^ 160) := by gcongr
      _ ≤ 3 / 2 ^ 53 * (κ * (S / G)) + 1 / 2 ^ 160 := by linarith
  obtain ⟨hPlo, hPhi⟩ := abs_le.1 hP
  obtain ⟨hWlo, hWhi⟩ := abs_le.1 hWκ
  exact abs_le.2 ⟨by linarith, by linarith⟩

theorem winNormalisedWithin_numB64 :
    WinNormalisedWithin numB64 (fun x => (f64Value x : ℝ)) (1 / 2 ^ 30) 65536
      (winDefault numB64) := by
  intro b hb hcap
  obtain ⟨hgf, hglo, hgsq⟩ := hannScale_close hb hcap
  obtain ⟨hfin, hclose⟩ := sqSum_div_close hgf hglo (hannRow_upToTwo hb hcap)
  have hb0 : (0 : ℝ) < b := by exact_mod_cast (by omega : 0 < b)
  have hbR : (b : ℝ) ≤ 2 ^ 16 := by exact_mod_cast hcap
  have hbN : (b : ℝ) ≤ nextPow2 b := by exact_mod_cast le_nextPow2 b
  have hN0 : (0 : ℝ) < nextPow2 b := hb0.trans_le hbN
  have hS : 0 < sqSum (hannRow b) := by linarith [sqSum_hannRow hb hcap]
  refine ⟨winDefault_length _ _ _, ?_, ?_⟩ <;> rw [winDefault_numB64]
  · exact hfin
  · rw [hannRow_length] at hclose
    have hnorm := normalised_of_close (div_pos hb0 hN0) ((div_le_one hN0).2 hbN) hS hgsq
      (hclose.trans (by linarith))
    push_cast
    exact hnorm

/-- +0 divided by a positive number is +0. -/
theorem f64Div_zero_left (hg : f64IsFinite g = true) (hpos : 0 < (f64Value g : ℝ)) :
    f64Div 0#64 g = 0#64 := by
  obtain ⟨hz, hs⟩ := plus_of_value_pos hpos
  have hfin : f64IsFinite 0#64 = true := by decide
  have hsign : f64Sign 0#64 = false := by decide
  have hmag : f64Mag 0#64 = 0 := by decide
  have e : f64Div 0#64 g = f64Round false 0 (f64Mag g) := by
    simp [f64Div, f64IsNaN_of_finite hfin, f64IsInf_of_finite hfin, f64IsNaN_of_finite hg,
      f64IsInf_of_finite hg, hz, hs, hsign, hmag]
  rw [e]
  simp [f64Round, f64Place, f64Pack, f64Make]

/-- The first coefficient is the first value of the shape, +0, over the scale. -/
theorem winDefault_zero (hb : 2 ≤ b) (hcap : b ≤ 2 ^ 16) :
    (winDefault numB64 b (nextPow2 b))[0]? = some 0#64 := by
  obtain ⟨hgf, hglo, _⟩ := hannScale_close hb hcap
  have hpos : 0 < (f64Value (hannScale b) : ℝ) := by linarith
  have hfirst : (hannRow b)[0]? = some 0#64 := by
    rw [hannRow, List.getElem?_map, List.getElem?_range (by omega), Option.map_some,
      hannShape_zero (by omega) (by omega)]
  rw [winDefault_numB64, List.getElem?_map, hfirst, Option.map_some, f64Div_zero_left hgf hpos]

/-- Settles O52: the quotients by the root of the scaled sum have the scaled sum 1, and rounding
moves it by less than 2^-30. -/
theorem defaultWindowIsNormalised : Obligations.DefaultWindowIsNormalised :=
  ⟨winNormalised_numReal, winNormalisedWithin_numB64, fun _ => winDefault_zero⟩

end Sys2Proof.Machine
end

section
/-!
SUPPORT. The windowing unit (41_window.md): which input a call accepts, the row WIN c leaves in its
bank, and where a call stops when a sample is missing.
-/

namespace Sys2Proof.Machine

open Sys2Proof.Claims

variable {F : Type} {p : Params F} {b : Block F} {c : Channel}

/-! ## Operands out of range -/

theorem channelOf_eq_none {arg : BitVec 8} (h : decide (arg.toNat < 2) = false) :
    channelOf arg = none :=
  Option.not_isSome_iff_eq_none.1 fun hs => of_decide_eq_false h ((channelOf_isSome arg).1 hs)

theorem spectrumOf_eq_none {arg : BitVec 8} (h : decide (arg.toNat < 3) = false) :
    spectrumOf arg = none :=
  Option.not_isSome_iff_eq_none.1 fun hs => of_decide_eq_false h ((spectrumOf_isSome arg).1 hs)

/-- Settles O5: an operand out of range names no channel and no spectrum. -/
theorem operandOutOfRangeEndsIllegal : Obligations.OperandOutOfRangeEndsIllegal := by
  intro i s h
  cases i with
  | nop | config | process | tick => cases h
  | win arg => simp only [exec, execWin, runWin_eq, channelOf_eq_none h]; rfl
  | fft arg => simp only [exec, execFft, runFft_eq, channelOf_eq_none h]; rfl
  | conj arg => simp only [exec, execConj, runConj_eq, channelOf_eq_none h]; rfl
  | cmul arg => simp only [exec, execCmul, runCmul_eq, spectrumOf_eq_none h]; rfl
  | smooth arg => simp only [exec, execSmooth, runSmooth_eq, spectrumOf_eq_none h]; rfl

/-! ## The input checks -/

theorem Block.wrongChannelCount_eq_false_iff : b.wrongChannelCount = false ↔ b.nch = 2#32 := by
  rw [Block.wrongChannelCount, decide_eq_false_iff_not, not_not]
  exact BitVec.toNat_inj (y := 2#32)

theorem Block.rowTooShort_eq_false_iff :
    b.rowTooShort c = false ↔ b.ablock.toInt ≤ ((b.inlen.get c).toNat : Int) := by
  simp [Block.rowTooShort]

/-- The input WIN c accepts (41_window.md R121). -/
theorem Block.winInputBad_eq_false_iff :
    b.winInputBad c = false ↔
      b.nch = 2#32 ∧ b.ablock.toInt ≤ ((b.inlen.get c).toNat : Int) := by
  rw [Block.winInputBad, Bool.or_eq_false_iff, Block.wrongChannelCount_eq_false_iff,
    Block.rowTooShort_eq_false_iff]

/-- The input PROCESS accepts (46_process.md R180). -/
theorem Block.processInputBad_eq_false_iff :
    b.processInputBad = false ↔ b.nch = 2#32 ∧
      b.ablock.toInt ≤ (b.inlen.ch0.toNat : Int) ∧ b.ablock.toInt ≤ (b.inlen.ch1.toNat : Int) := by
  rw [Block.processInputBad, Bool.or_eq_false_iff, Bool.or_eq_false_iff,
    Block.wrongChannelCount_eq_false_iff, Block.rowTooShort_eq_false_iff,
    Block.rowTooShort_eq_false_iff, and_assoc]
  rfl

theorem Block.checkedCommand_of_accepted {bad : Block F → Bool}
    {effect : Block F → Except Fault (Block F)} (hc : b.configured = true) (hbad : bad b = false) :
    b.checkedCommand bad effect = (effect b).map Block.complete := by
  simp [Block.checkedCommand, hc, hbad]

theorem exec_win_of_accepted {s : State} (hc : s.block.configured = true)
    (hnch : s.block.nch = 2#32)
    (hlong : s.block.ablock.toInt ≤ ((s.block.inlen.get c).toNat : Int)) :
    exec (.win (chanArg c)) s = s.outcome ((winEffect params c s.block).map Block.complete) := by
  rw [exec, execWin, runWin_eq, chanArg, channelOf_number, Option.elim_some,
    Block.checkedCommand_of_accepted hc (Block.winInputBad_eq_false_iff.2 ⟨hnch, hlong⟩)]

theorem exec_process_of_accepted {s : State} (hc : s.block.configured = true)
    (hnch : s.block.nch = 2#32) (hlong0 : s.block.ablock.toInt ≤ (s.block.inlen.ch0.toNat : Int))
    (hlong1 : s.block.ablock.toInt ≤ (s.block.inlen.ch1.toNat : Int)) :
    exec .process s = s.outcome ((processEffect params s.block).map Block.complete) := by
  rw [exec, execProcess, runProcess, Block.checkedCommand_of_accepted hc
    (Block.processInputBad_eq_false_iff.2 ⟨hnch, hlong0, hlong1⟩)]

/-! ## The row -/

/-- Below B: sample times coefficient. -/
theorem windowRow_getElem?_of_lt_blockLen (num : Num F) {row : List F} {n : Nat}
    (hn : n < b.blockLen) (hx : n < (b.xbuf.get c).length) :
    ((b.windowRow num c row).xbuf.get c)[n]?
      = some (num.mul (elem num row n) (elem num b.win n)) := by
  rw [Block.windowRow, Block.setXbuf_xbuf, PerChannel.get_set_same]
  exact storeElems_written (if_pos hn) hx

/-- From B to N - 1: +0. -/
theorem windowRow_getElem?_of_blockLen_le (num : Num F) {row : List F} {n : Nat}
    (hB : b.blockLen ≤ n) (hN : n < b.fftLen) (hx : n < (b.xbuf.get c).length) :
    ((b.windowRow num c row).xbuf.get c)[n]? = some num.zero := by
  rw [Block.windowRow, Block.setXbuf_xbuf, PerChannel.get_set_same]
  exact storeElems_written ((if_neg (Nat.not_lt.2 hB)).trans (if_pos hN)) hx

/-- XBUFc is all that windowing channel c replaces. -/
theorem windowRow_eq_setXbuf (num : Num F) (row : List F) :
    b.windowRow num c row = b.setXbuf c ((b.windowRow num c row).xbuf.get c) := by
  simp [Block.windowRow, Block.setXbuf]

/-- The lengths WIN c works with on a block that has an estimator (10_state.md R37). -/
theorem lengths_of_ready {b : Block B64} (h : ready b) (c : Channel) :
    b.win.length = b.blockLen ∧ (b.xbuf.get c).length = b.fftLen := by
  obtain ⟨hconf, hsized, _, _⟩ := h
  rw [Block.sized, if_pos hconf, Block.lengthsAre_iff] at hsized
  obtain ⟨hwin, hxbuf, _⟩ := hsized
  exact ⟨hwin, hxbuf c⟩

/-- The two loops of WIN c write every element of XBUFc (41_window.md R120). -/
theorem isWindowedRow_windowRow {b : Block B64} {row : List B64} (h : ready b)
    (hrow : readRow (b.inp.get c) b.blockLen 0 = .ok row) :
    isWindowedRow b c ((b.windowRow numB64 c row).xbuf.get c) := by
  obtain ⟨hwin, hxbuf⟩ := lengths_of_ready h c
  have ⟨_, _, hBN, _⟩ := h
  obtain ⟨hlen, hread⟩ := readRow_ok hrow
  refine ⟨((windowRow_keeps numB64 c row b).xbuf c).trans hxbuf, fun n hn => ?_, fun n hB hN => ?_⟩
  · have hsample : memRead (b.inp.get c) n = some (elem numB64 row n) := by
      rw [← elem_of_lt numB64 (by omega), (hread n hn).1, Nat.zero_add]
    exact ⟨_, _, hsample, elem_of_lt numB64 (by omega),
      windowRow_getElem?_of_lt_blockLen numB64 hn (by omega)⟩
  · exact windowRow_getElem?_of_blockLen_le numB64 hB hN (by omega)

/-- Settles O28: the accepted call reads its row and ends on the block with that row windowed. -/
theorem winWindowsAndPads : Obligations.WinWindowsAndPads := by
  intro s c hready hnch hlong hwritten
  have ⟨hc, _⟩ := hready
  obtain ⟨row, hrow, hwin⟩ := winEffect_of_written params hwritten
  refine ⟨_, ?_, isWindowedRow_windowRow hready hrow⟩
  rw [exec_win_of_accepted hc hnch hlong, hwin, windowRow_eq_setXbuf]
  rfl

/-! ## Missing samples -/

/-- Element n is the first that a call needs from channel c and nothing has written. -/
structure Block.FirstUnwritten (b : Block F) (c : Channel) (n : Nat) : Prop where
  needed : n < b.blockLen
  unwritten : memRead (b.inp.get c) n = none
  first : ∀ j, j < n → (memRead (b.inp.get c) j).isSome = true

/-- Reading the row neither passes the first unwritten sample nor stops before it. -/
theorem Block.FirstUnwritten.readRow_eq {n : Nat} (h : b.FirstUnwritten c n) :
    readRow (b.inp.get c) b.blockLen 0 = .error n := by
  cases hr : readRow (b.inp.get c) b.blockLen 0 with
  | ok row =>
    obtain ⟨_, hread⟩ := readRow_ok hr
    obtain ⟨hn, hsome⟩ := hread n h.needed
    exact absurd hsome (by simp [hn, h.unwritten])
  | error j =>
    obtain ⟨_, _, hj, hbefore⟩ := readRow_error hr
    rcases Nat.lt_trichotomy j n with hlt | rfl | hlt
    · exact absurd (h.first j hlt) (by simp [hj])
    · rfl
    · exact absurd (hbefore n n.zero_le hlt) (by simp [h.unwritten])

theorem winEffect_of_firstUnwritten (p : Params F) {n : Nat} (h : b.FirstUnwritten c n) :
    winEffect p c b = .error (.unwrittenInput c n) := by
  rw [winEffect, h.readRow_eq]

/-- PROCESS reads row 0 before row 1, so the first missing sample is row 1's only when row 0 is
whole. -/
theorem processEffect_of_firstUnwritten (p : Params F) {n : Nat} (h : b.FirstUnwritten c n)
    (hrow0 : c = .ch1 → b.rowWritten .ch0) :
    processEffect p b = .error (.unwrittenInput c n) := by
  cases c with
  | ch0 => rw [processEffect, winEffect_of_firstUnwritten p h]
  | ch1 =>
    obtain ⟨row, _, hwin⟩ := winEffect_of_written p (hrow0 rfl)
    have hstill : (b.windowRow p.num .ch0 row).FirstUnwritten .ch1 n :=
      ⟨h.needed, h.unwritten, h.first⟩
    simp only [processEffect, hwin, winEffect_of_firstUnwritten p hstill]

/-- Settles O23: the accepted call faults at the first missing sample. -/
theorem unwrittenSampleStopsTheCall : Obligations.UnwrittenSampleStopsTheCall := by
  intro s c n hc hnch hn hnone hsome
  have hfirst : s.block.FirstUnwritten c n := ⟨hn, hnone, hsome⟩
  refine ⟨fun hlong => ?_, fun hlong0 hlong1 hrow0 => ?_⟩
  · rw [exec_win_of_accepted hc hnch hlong, winEffect_of_firstUnwritten params hfirst]
    rfl
  · rw [exec_process_of_accepted hc hnch hlong0 hlong1,
      processEffect_of_firstUnwritten params hfirst hrow0]
    rfl

end Sys2Proof.Machine
end

section
/-!
SUPPORT. The default transform (42_fft.md R133): its layout and its mirror, over every numerics
record, and what FFT c does with it (R130).
-/

namespace Sys2Proof.Machine

open Sys2Proof.Claims

variable {F : Type} {p : Params F} {b : Block F} {c : Channel} {N m k : Nat}

/-! ## The interleaved layout -/

theorem interleave_length (l : List (F × F)) : (interleave l).length = 2 * l.length := by
  induction l with
  | nil => rfl
  | cons v rest ih => rw [interleave, List.length_cons, List.length_cons, ih, List.length_cons]; omega

/-- Elements 2k and 2k + 1 are bin k (20_memory.md R68). -/
theorem interleave_getElem? (l : List (F × F)) (k : Nat) :
    (interleave l)[2 * k]? = l[k]?.map Prod.fst ∧
      (interleave l)[2 * k + 1]? = l[k]?.map Prod.snd := by
  induction l generalizing k with
  | nil => simp [interleave]
  | cons v rest ih =>
    cases k with
    | zero => simp [interleave]
    | succ k => simpa [interleave, Nat.mul_succ] using ih k

theorem mem_interleave {l : List (F × F)} {v : F} (h : v ∈ interleave l) :
    ∃ bin ∈ l, v = bin.1 ∨ v = bin.2 := by
  induction l with
  | nil => cases h
  | cons bin rest ih =>
    rw [interleave, List.mem_cons, List.mem_cons] at h
    rcases h with h | h | h
    · exact ⟨bin, List.mem_cons_self, .inl h⟩
    · exact ⟨bin, List.mem_cons_self, .inr h⟩
    · obtain ⟨bin', hmem, hv⟩ := ih h
      exact ⟨bin', List.mem_cons_of_mem _ hmem, hv⟩

/-! ## The mirror -/

section
variable (num : Num F) (Y : List (F × F))

theorem mirrorBin_of_edge (h : k = 0 ∨ k = N / 2) :
    mirrorBin num N Y k = ((Y.getD k (num.zero, num.zero)).1, num.zero) := if_pos h

theorem mirrorBin_of_lt_half (h0 : 0 < k) (h : k < N / 2) :
    mirrorBin num N Y k = Y.getD k (num.zero, num.zero) := by
  rw [mirrorBin, if_neg (by omega), if_pos h]

theorem mirrorBin_of_half_lt (h : N / 2 < k) :
    mirrorBin num N Y k = ((Y.getD (N - k) (num.zero, num.zero)).1,
      num.neg (Y.getD (N - k) (num.zero, num.zero)).2) := by
  rw [mirrorBin, if_neg (by omega), if_neg (by omega)]

/-- The bins above N/2 conjugate those below, as the mirror writes both. -/
theorem mirrorBin_mirror (h0 : 0 < k) (h : k < N / 2) :
    mirrorBin num N Y (N - k)
      = ((mirrorBin num N Y k).1, num.neg (mirrorBin num N Y k).2) := by
  rw [mirrorBin_of_half_lt num Y (by omega), mirrorBin_of_lt_half num Y h0 h,
    Nat.sub_sub_self (by omega)]

end

/-! ## The transform -/

/-- Y of the default transform: the recursion on the input as complex numbers (42_fft.md R133). -/
def fftBins (num : Num F) (N : Nat) (x : List F) : List (F × F) :=
  fftRec num (log2Ceil N) ((firstElems num N x).map fun v => (v, num.zero))

theorem fftDefault_eq (num : Num F) (N : Nat) (x : List F) :
    fftDefault num N x = interleave ((List.range N).map (mirrorBin num N (fftBins num N x))) := rfl

@[simp] theorem fftDefault_length (num : Num F) (N : Nat) (x : List F) :
    (fftDefault num N x).length = 2 * N := by
  rw [fftDefault_eq, interleave_length, List.length_map, List.length_range]

/-- Bin k of the default transform is bin k after the mirror. -/
theorem elem_fftDefault (num : Num F) (x : List F) (hk : k < N) :
    elem num (fftDefault num N x) (2 * k) = (mirrorBin num N (fftBins num N x) k).1 ∧
      elem num (fftDefault num N x) (2 * k + 1) = (mirrorBin num N (fftBins num N x) k).2 := by
  obtain ⟨hre, him⟩ := interleave_getElem? ((List.range N).map (mirrorBin num N (fftBins num N x))) k
  simp [elem, fftDefault_eq, List.getD_eq_getElem?_getD, hre, him, hk]

theorem half_two_pow_succ (m : Nat) : 2 ^ (m + 1) / 2 = 2 ^ m := by
  rw [pow_succ, Nat.mul_div_cancel _ Nat.two_pos]

theorem log2Ceil_two_pow (m : Nat) : log2Ceil (2 ^ m) = m := by
  rw [log2Ceil, log2CeilFuel_eq_clog le_rfl, Nat.clog_pow 2 m Nat.one_lt_two]

theorem fftBins_two_pow (num : Num F) {x : List F} (hx : x.length = 2 ^ m) :
    fftBins num (2 ^ m) x = fftRec num m (x.map fun v => (v, num.zero)) := by
  rw [fftBins, log2Ceil_two_pow, firstElems_eq_self num hx]

/-- Settles O53: N bins of two elements each, whatever the recursion returns. -/
theorem defaultFftHasTwoNElements : Obligations.DefaultFftHasTwoNElements :=
  fun num m x _ => fftDefault_length num (2 ^ m) x

/-! ## FFT c -/

/-- A loop over a whole bank replaces it. -/
theorem storeElems_whole (num : Num F) {X bank : List F} {n : Nat} (hX : X.length = n)
    (hbank : bank.length = n) :
    storeElems (fun i => if i < n then some (elem num X i) else none) bank = X := by
  refine List.ext_getElem? fun i => ?_
  by_cases hi : i < n
  · rw [storeElems_written (if_pos hi) (hbank ▸ hi), elem_of_lt num (hX ▸ hi)]
  · rw [List.getElem?_eq_none (by simp; omega), List.getElem?_eq_none (by omega)]

/-- FFT c replaces SPECc by the transform of XBUFc when the banks have their lengths. -/
theorem fftEffect_eq (hx : (b.xbuf.get c).length = b.fftLen)
    (hs : (b.spec.get c).length = 2 * b.fftLen)
    (hX : (p.fft b.fftLen (b.xbuf.get c)).length = 2 * b.fftLen) :
    fftEffect p c b = b.setSpec c (p.fft b.fftLen (b.xbuf.get c)) := by
  rw [fftEffect, firstElems_eq_self p.num hx, storeElems_whole p.num hX hs]

theorem spec_length_of_ready {b : Block B64} (h : ready b) (c : Channel) :
    (b.spec.get c).length = 2 * b.fftLen := by
  obtain ⟨hconf, hsized, _, _⟩ := h
  rw [Block.sized, if_pos hconf, Block.lengthsAre_iff] at hsized
  obtain ⟨_, _, hspec, _⟩ := hsized
  exact hspec c

/-- Settles O29: on a configured block the banks have the lengths of the transform. -/
theorem fftFillsTheSpectrum : Obligations.FftFillsTheSpectrum := by
  intro s c h
  have ⟨hconf, _⟩ := h
  rw [exec, execFft, runFft_eq, chanArg, channelOf_number, Option.elim_some, Block.command,
    if_pos hconf, fftEffect_eq (lengths_of_ready h c).2 (spec_length_of_ready h c)
      (fftDefault_length ..)]
  rfl

end Sys2Proof.Machine
end

section
/-!
SUPPORT. The default transform over the reals is the reference transform (42_fft.md R131, R132
FFT-REF): the recursion evaluates the input, as a polynomial, at the roots of unity.
-/

namespace Sys2Proof.Machine

open Complex (I)

variable {N m k n : Nat} {α β : Type}

/-! ## Splitting a row -/

theorem evens_map (f : α → β) : ∀ l : List α, evens (l.map f) = (evens l).map f
  | [] => rfl
  | [_] => rfl
  | a :: _ :: rest => congrArg (f a :: ·) (evens_map f rest)

theorem odds_map (f : α → β) : ∀ l : List α, odds (l.map f) = (odds l).map f
  | [] => rfl
  | [_] => rfl
  | _ :: b :: rest => congrArg (f b :: ·) (odds_map f rest)

/-- A row of even length splits into halves. -/
theorem evens_odds_length {l : List α} (h : l.length = 2 * n) :
    (evens l).length = n ∧ (odds l).length = n := by
  induction n generalizing l with
  | zero => obtain rfl := List.length_eq_zero_iff.1 h; exact ⟨rfl, rfl⟩
  | succ n ih =>
    match l, h with
    | _ :: _ :: rest, h =>
      obtain ⟨he, ho⟩ := ih (l := rest) (by simp only [List.length_cons] at h; omega)
      exact ⟨congrArg (· + 1) he, congrArg (· + 1) ho⟩

theorem twiddleFrom_eq_mapIdx {F : Type} (num : Num F) (M k : Nat) (l : List (F × F)) :
    twiddleFrom num M k l = l.mapIdx fun i o => twiddle num M (k + i) o := by
  induction l generalizing k with
  | nil => rfl
  | cons o rest ih =>
    simp only [twiddleFrom, ih, List.mapIdx_cons, Nat.add_zero, Nat.add_assoc, Nat.add_comm 1]

/-! ## The roots of unity -/

/-- exp (-2 pi i k / N), the twiddle of k and N. -/
noncomputable def unitRoot (N k : Nat) : ℂ := Complex.exp (-(2 * Real.pi * k / N : ℝ) * I)

theorem unitRoot_pow (N k n : Nat) :
    unitRoot N k ^ n = Complex.exp (-(2 * Real.pi * k * n / N : ℝ) * I) := by
  rw [unitRoot, ← Complex.exp_nat_mul]
  congr 1
  push_cast
  ring

theorem unitRoot_pow_re (N k n : Nat) :
    (unitRoot N k ^ n).re = Real.cos (2 * Real.pi * k * n / N) := by
  rw [unitRoot_pow, ← Complex.ofReal_neg, Complex.exp_ofReal_mul_I_re, Real.cos_neg]

theorem unitRoot_pow_im (N k n : Nat) :
    (unitRoot N k ^ n).im = -Real.sin (2 * Real.pi * k * n / N) := by
  rw [unitRoot_pow, ← Complex.ofReal_neg, Complex.exp_ofReal_mul_I_im, Real.sin_neg]

theorem unitRoot_sq (N k : Nat) : unitRoot (2 * N) k ^ 2 = unitRoot N k := by
  rw [unitRoot_pow, unitRoot]
  congr 4
  push_cast
  rw [mul_comm _ (2 : ℝ), mul_div_mul_left _ _ two_ne_zero]

/-- Half a turn on is the opposite root. -/
theorem unitRoot_add_half (hN : 0 < N) (k : Nat) :
    unitRoot (2 * N) (N + k) = -unitRoot (2 * N) k := by
  have hN' : (N : ℂ) ≠ 0 := Nat.cast_ne_zero.2 hN.ne'
  rw [unitRoot, unitRoot, ← Complex.exp_sub_pi_mul_I]
  congr 1
  push_cast
  field_simp
  ring

/-! ## Bins as complex numbers -/

/-- The bin that holds a complex number. -/
def binOf (z : ℂ) : ℝ × ℝ := (z.re, z.im)

theorem pairAdd_binOf (z w : ℂ) : pairAdd numReal (binOf z) (binOf w) = binOf (z + w) := rfl

theorem pairSub_binOf (z w : ℂ) : pairSub numReal (binOf z) (binOf w) = binOf (z - w) := rfl

/-- The twiddle multiplies by its root of unity. -/
theorem twiddle_binOf (M k : Nat) (z : ℂ) :
    twiddle numReal M k (binOf z) = binOf (unitRoot M k * z) := by
  have hre := unitRoot_pow_re M k 1
  have him := unitRoot_pow_im M k 1
  rw [pow_one, Nat.cast_one, mul_one] at hre him
  simp [twiddle, binOf, hre, him]

/-! ## The recursion -/

/-- The polynomial with these coefficients, evaluated at w. -/
def evalAt (w : ℂ) : List ℂ → ℂ
  | [] => 0
  | a :: rest => a + w * evalAt w rest

/-- The polynomial split into its even and its odd powers. -/
theorem evalAt_eq_evens_odds (w : ℂ) :
    ∀ z, evalAt w z = evalAt (w ^ 2) (evens z) + w * evalAt (w ^ 2) (odds z)
  | [] => by simp [evens, odds, evalAt]
  | [a] => by simp [evens, odds, evalAt]
  | a :: b :: rest => by
    simp only [evens, odds, evalAt, evalAt_eq_evens_odds w rest]
    ring

theorem evalAt_eq_sum (w : ℂ) (z : List ℂ) :
    evalAt w z = ∑ n ∈ Finset.range z.length, z.getD n 0 * w ^ n := by
  induction z with
  | nil => rfl
  | cons a rest ih =>
    rw [evalAt, ih, List.length_cons, Finset.sum_range_succ', Finset.mul_sum, add_comm]
    simp only [List.getD_cons_succ, List.getD_cons_zero, pow_zero, mul_one, pow_succ']
    congr 1
    exact Finset.sum_congr rfl fun n _ => by ring

/-- The two outputs of a butterfly: the sum of the halves at k, the difference at N + k. -/
theorem evalAt_butterfly (hN : 0 < N) (k : Nat) (z : List ℂ) :
    evalAt (unitRoot N k) (evens z) + unitRoot (2 * N) k * evalAt (unitRoot N k) (odds z)
        = evalAt (unitRoot (2 * N) k) z ∧
      evalAt (unitRoot N k) (evens z) - unitRoot (2 * N) k * evalAt (unitRoot N k) (odds z)
        = evalAt (unitRoot (2 * N) (N + k)) z := by
  rw [evalAt_eq_evens_odds _ z, evalAt_eq_evens_odds (unitRoot (2 * N) (N + k)) z,
    unitRoot_add_half hN, neg_sq, unitRoot_sq]
  exact ⟨rfl, by ring⟩

/-- rec(2^m, z) evaluates z at the 2^m roots of unity. -/
theorem fftRec_numReal {z : List ℂ} (hz : z.length = 2 ^ m) :
    fftRec numReal m (z.map binOf)
      = (List.range (2 ^ m)).map fun k => binOf (evalAt (unitRoot (2 ^ m) k) z) := by
  induction m generalizing z with
  | zero =>
    obtain ⟨a, rfl⟩ := List.length_eq_one_iff.1 hz
    simp [fftRec, evalAt]
  | succ m ih =>
    rw [pow_succ'] at hz ⊢
    obtain ⟨he, ho⟩ := evens_odds_length hz
    have hN : 0 < 2 ^ m := Nat.two_pow_pos m
    rw [two_mul, List.range_add, List.map_append, ← two_mul, fftRec, evens_map, odds_map, ih he,
      ih ho, twiddleFrom_eq_mapIdx, pow_succ']
    congr 1 <;> refine List.ext_getElem (by simp) fun k _ _ => ?_
    · simp [twiddle_binOf, pairAdd_binOf, (evalAt_butterfly hN k z).1]
    · simp [twiddle_binOf, pairSub_binOf, (evalAt_butterfly hN k z).2]

/-! ## The reference transform -/

/-- The reference transform evaluates the row at the roots of unity. -/
theorem binOf_evalAt {x : List ℝ} (hx : x.length = N) (k : Nat) :
    binOf (evalAt (unitRoot N k) (x.map Complex.ofReal)) = (dftRe N x k, dftIm N x k) := by
  have hget : ∀ n, (x.map Complex.ofReal).getD n 0 = (x.getD n 0 : ℝ) := fun n =>
    List.getD_map x 0 Complex.ofReal
  rw [evalAt_eq_sum, List.length_map, hx, binOf, dftRe, dftIm, Complex.re_sum, Complex.im_sum,
    ← Finset.sum_neg_distrib]
  simp only [hget, Complex.re_ofReal_mul, Complex.im_ofReal_mul, unitRoot_pow_re, unitRoot_pow_im,
    mul_neg]

/-- Y of the default transform over the reals, before the mirror. -/
theorem fftBins_numReal {x : List ℝ} (hx : x.length = 2 ^ m) :
    fftBins numReal (2 ^ m) x
      = (List.range (2 ^ m)).map fun k => (dftRe (2 ^ m) x k, dftIm (2 ^ m) x k) := by
  have hbins : (x.map fun v => (v, numReal.zero)) = (x.map Complex.ofReal).map binOf := by
    rw [List.map_map]
    rfl
  rw [fftBins_two_pow numReal hx, hbins, fftRec_numReal (by rwa [List.length_map])]
  simp only [binOf_evalAt hx]

/-- The angle of bin N - k is whole turns less that of bin k. -/
theorem angle_mirror (hN : 0 < N) (hk : k ≤ N) (n : Nat) :
    2 * Real.pi * (N - k : Nat) * n / N = n * (2 * Real.pi) - 2 * Real.pi * k * n / N := by
  have hN' : (N : ℝ) ≠ 0 := Nat.cast_ne_zero.2 hN.ne'
  rw [Nat.cast_sub hk]
  field_simp

section
variable (x : List ℝ)

theorem dftRe_mirror (hN : 0 < N) (hk : k ≤ N) : dftRe N x (N - k) = dftRe N x k := by
  simp only [dftRe, angle_mirror hN hk, Real.cos_nat_mul_two_pi_sub]

theorem dftIm_mirror (hN : 0 < N) (hk : k ≤ N) : dftIm N x (N - k) = -dftIm N x k := by
  simp only [dftIm, angle_mirror hN hk, Real.sin_nat_mul_two_pi_sub, mul_neg,
    Finset.sum_neg_distrib]

theorem dftIm_zero (N : Nat) : dftIm N x 0 = 0 := by simp [dftIm]

/-- Bin N/2 is its own mirror. -/
theorem dftIm_half (hN : 0 < N) (h : N - k = k) : dftIm N x k = 0 := by
  have hself := dftIm_mirror x hN (k := k) (by omega)
  rw [h] at hself
  linarith

end

/-- The mirror of the default transform changes nothing over the reals. -/
theorem mirrorBin_fftBins_numReal {x : List ℝ} (hx : x.length = 2 ^ m) (hk : k < 2 ^ m) :
    mirrorBin numReal (2 ^ m) (fftBins numReal (2 ^ m) x) k
      = (dftRe (2 ^ m) x k, dftIm (2 ^ m) x k) := by
  have hN : 0 < 2 ^ m := Nat.two_pow_pos m
  have hbin : ∀ j, j < 2 ^ m →
      (fftBins numReal (2 ^ m) x).getD j (numReal.zero, numReal.zero)
        = (dftRe (2 ^ m) x j, dftIm (2 ^ m) x j) := fun j hj => by
    simp [fftBins_numReal hx, hj]
  rcases Nat.eq_zero_or_pos k with rfl | h0
  · rw [mirrorBin_of_edge _ _ (.inl rfl), hbin 0 hN, dftIm_zero, numReal_zero]
  rcases Nat.lt_trichotomy k (2 ^ m / 2) with hlt | heq | hgt
  · rw [mirrorBin_of_lt_half _ _ h0 hlt, hbin k hk]
  · have hself : 2 ^ m - k = k := by
      cases m with
      | zero => omega
      | succ m => rw [heq, half_two_pow_succ, pow_succ]; omega
    rw [mirrorBin_of_edge _ _ (.inr heq), hbin k hk, dftIm_half x hN hself, numReal_zero]
  · rw [mirrorBin_of_half_lt _ _ hgt, hbin _ (by omega), dftRe_mirror x hN hk.le,
      dftIm_mirror x hN hk.le, numReal_neg, neg_neg]

/-- Settles O54: the recursion gives the reference bins, and the mirror leaves them. -/
theorem defaultFftIsTheReferenceTransform : Obligations.DefaultFftIsTheReferenceTransform := by
  intro m x hx
  rw [fftDefault_eq, dftRef]
  exact congrArg interleave (List.map_congr_left fun k hk =>
    mirrorBin_fftBins_numReal hx (List.mem_range.1 hk))

end Sys2Proof.Machine
end

section
/-!
SUPPORT. FFT-HERM and FFT-ZERO of the default transform (42_fft.md R132): what they need of a
numerics record, and that NUM_REAL and NUM_B64 have it.
-/

namespace Sys2Proof.Machine

open Sys2Proof.Claims

variable {F : Type} {num : Num F} {x : List F} {N m k top : Nat}

/-! ## The symmetry -/

/-- Bin N - k is bin k with the imaginary part negated, below N/2. -/
theorem elem_fftDefault_mirror (num : Num F) (x : List F) (h0 : 0 < k) (h : k < N / 2) :
    elem num (fftDefault num N x) (2 * (N - k)) = elem num (fftDefault num N x) (2 * k) ∧
      elem num (fftDefault num N x) (2 * (N - k) + 1)
        = num.neg (elem num (fftDefault num N x) (2 * k + 1)) := by
  obtain ⟨hre, him⟩ := elem_fftDefault num x (show k < N by omega)
  obtain ⟨hre', him'⟩ := elem_fftDefault num x (show N - k < N by omega)
  rw [hre, him, hre', him', mirrorBin_mirror num _ h0 h]
  exact ⟨rfl, rfl⟩

/-- Bins 0 and N/2 are real. -/
theorem elem_fftDefault_edge (num : Num F) (x : List F) (hk : k < N) (h : k = 0 ∨ k = N / 2) :
    elem num (fftDefault num N x) (2 * k + 1) = num.zero := by
  rw [(elem_fftDefault num x hk).2, mirrorBin_of_edge num _ h]

theorem elem_fftDefault_edges (num : Num F) (x : List F) (m : Nat) :
    elem num (fftDefault num (2 ^ (m + 1)) x) 1 = num.zero ∧
      elem num (fftDefault num (2 ^ (m + 1)) x) (2 ^ (m + 1) + 1) = num.zero := by
  have hlt : 2 ^ m < 2 ^ (m + 1) := Nat.pow_lt_pow_succ Nat.one_lt_two
  refine ⟨elem_fftDefault_edge num x (Nat.two_pow_pos _) (.inl rfl), ?_⟩
  have hmid := elem_fftDefault_edge num x hlt (.inr (half_two_pow_succ m).symm)
  rwa [← pow_succ'] at hmid

/-- FFT-HERM needs no more than that negating twice changes nothing. -/
theorem fftHerm_fftDefault (hneg : ∀ a, num.neg (num.neg a) = a)
    (hzero : num.isZero num.zero = true) : FftHerm num (fftDefault num) := by
  intro m x _
  obtain ⟨hfirst, hmid⟩ := elem_fftDefault_edges num x m
  refine ⟨fun k h1 hk => ?_, by rw [hfirst, hzero], by rw [hmid, hzero]⟩
  have hhalf := half_two_pow_succ m
  have hpow : 2 ^ (m + 1) = 2 * 2 ^ m := pow_succ' 2 m
  rcases Nat.lt_trichotomy k (2 ^ m) with hlt | rfl | hgt
  · obtain ⟨hre, him⟩ := elem_fftDefault_mirror num x h1 (hhalf ▸ hlt)
    exact ⟨hre, fun _ => him⟩
  · have hself : 2 ^ (m + 1) - 2 ^ m = 2 ^ m := by omega
    exact ⟨by rw [hself], fun hne => absurd rfl hne⟩
  · obtain ⟨hre, him⟩ := elem_fftDefault_mirror num x (N := 2 ^ (m + 1)) (k := 2 ^ (m + 1) - k)
      (by omega) (by omega)
    rw [Nat.sub_sub_self hk.le] at hre him
    exact ⟨hre.symm, fun _ => by rw [him, hneg]⟩

/-! ## Zeros -/

/-- Both parts of a bin are zeros. -/
def Num.IsZeroBin (num : Num F) (bin : F × F) : Prop :=
  num.isZero bin.1 = true ∧ num.isZero bin.2 = true

/-- What a record must do with zeros for FFT-ZERO up to N = 2^top. -/
structure Num.KeepsZeros (num : Num F) (top : Nat) : Prop where
  zero : num.isZero num.zero = true
  neg : ∀ {a}, num.isZero a = true → num.isZero (num.neg a) = true
  add : ∀ {a b}, num.isZero a = true → num.isZero b = true → num.isZero (num.add a b) = true
  sub : ∀ {a b}, num.isZero a = true → num.isZero b = true → num.isZero (num.sub a b) = true
  isZeroBin_twiddle : ∀ {m k o}, m < top → k < 2 ^ m → num.IsZeroBin o →
    num.IsZeroBin (twiddle num (2 ^ (m + 1)) k o)

theorem evens_subset_and_odds_subset {α : Type} (l : List α) : evens l ⊆ l ∧ odds l ⊆ l := by
  induction l using evens.induct with
  | case1 => exact ⟨List.Subset.refl _, List.Subset.refl _⟩
  | case2 a => exact ⟨List.Subset.refl _, List.nil_subset _⟩
  | case3 a b rest ih =>
    obtain ⟨he, ho⟩ := ih
    exact ⟨List.cons_subset_cons a (List.subset_cons_of_subset b he),
      List.subset_cons_of_subset a (List.cons_subset_cons b ho)⟩

theorem fftRec_length (num : Num F) {z : List (F × F)} (hz : z.length = 2 ^ m) :
    (fftRec num m z).length = 2 ^ m := by
  induction m generalizing z with
  | zero => exact hz
  | succ m ih =>
    rw [pow_succ'] at hz
    obtain ⟨he, ho⟩ := evens_odds_length hz
    rw [fftRec, List.length_append, List.length_zipWith, List.length_zipWith, twiddleFrom_eq_mapIdx,
      List.length_mapIdx, ih he, ih ho, min_self, pow_succ', two_mul]

theorem exists_of_mem_zipWith {α β γ : Type} {f : α → β → γ} {l : List α} {l' : List β} {c : γ}
    (h : c ∈ List.zipWith f l l') : ∃ a ∈ l, ∃ b ∈ l', f a b = c := by
  rw [← List.map_uncurry_zip_eq_zipWith, List.mem_map] at h
  obtain ⟨⟨a, b⟩, hab, rfl⟩ := h
  exact ⟨a, (List.of_mem_zip hab).1, b, (List.of_mem_zip hab).2, rfl⟩

section
variable (h : num.KeepsZeros top)
include h

/-- The recursion maps zeros to zeros. -/
theorem Num.KeepsZeros.isZeroBin_fftRec {z : List (F × F)} (hm : m ≤ top) (hz : z.length = 2 ^ m)
    (hzero : ∀ bin ∈ z, num.IsZeroBin bin) : ∀ bin ∈ fftRec num m z, num.IsZeroBin bin := by
  induction m generalizing z with
  | zero => exact hzero
  | succ m ih =>
    obtain ⟨he, ho⟩ := evens_odds_length (hz.trans (pow_succ' 2 m))
    obtain ⟨hes, hos⟩ := evens_subset_and_odds_subset z
    have hE := ih (Nat.le_of_succ_le hm) he fun bin hbin => hzero bin (hes hbin)
    have hO := ih (Nat.le_of_succ_le hm) ho fun bin hbin => hzero bin (hos hbin)
    have hT : ∀ bin ∈ twiddleFrom num (2 ^ (m + 1)) 0 (fftRec num m (odds z)),
        num.IsZeroBin bin := by
      intro bin hbin
      rw [twiddleFrom_eq_mapIdx] at hbin
      obtain ⟨k, hk, rfl⟩ := List.mem_mapIdx.1 hbin
      rw [Nat.zero_add]
      exact h.isZeroBin_twiddle hm (fftRec_length num ho ▸ hk) (hO _ (List.getElem_mem hk))
    intro bin hbin
    rw [fftRec, List.mem_append] at hbin
    rcases hbin with hbin | hbin <;> obtain ⟨e, hmem, t, htmem, rfl⟩ := exists_of_mem_zipWith hbin
    · exact ⟨h.add (hE e hmem).1 (hT t htmem).1, h.add (hE e hmem).2 (hT t htmem).2⟩
    · exact ⟨h.sub (hE e hmem).1 (hT t htmem).1, h.sub (hE e hmem).2 (hT t htmem).2⟩

/-- The mirror keeps zeros: it moves, negates and clears. -/
theorem Num.KeepsZeros.isZeroBin_mirrorBin {Y : List (F × F)}
    (hY : ∀ bin ∈ Y, num.IsZeroBin bin) (k : Nat) : num.IsZeroBin (mirrorBin num N Y k) := by
  have hget : ∀ j, num.IsZeroBin (Y.getD j (num.zero, num.zero)) := fun j => by
    rcases Nat.lt_or_ge j Y.length with hj | hj
    · rw [List.getD_eq_getElem _ _ hj]
      exact hY _ (List.getElem_mem hj)
    · rw [List.getD_eq_default _ _ hj]
      exact ⟨h.zero, h.zero⟩
  by_cases hedge : k = 0 ∨ k = N / 2
  · rw [mirrorBin_of_edge num Y hedge]
    exact ⟨(hget k).1, h.zero⟩
  rcases Nat.lt_or_ge k (N / 2) with hlt | hge
  · rw [mirrorBin_of_lt_half num Y (by omega) hlt]
    exact hget k
  · rw [mirrorBin_of_half_lt num Y (by omega)]
    exact ⟨(hget _).1, h.neg (hget _).2⟩

theorem Num.KeepsZeros.fftZero : FftZero num top (fftDefault num) := by
  intro m x hm hx hzero v hv
  have hY : ∀ bin ∈ fftBins num (2 ^ m) x, num.IsZeroBin bin := by
    rw [fftBins_two_pow num hx]
    refine h.isZeroBin_fftRec hm (by rwa [List.length_map]) fun bin hbin => ?_
    obtain ⟨a, ha, rfl⟩ := List.mem_map.1 hbin
    exact ⟨hzero a ha, h.zero⟩
  obtain ⟨bin, hbin, rfl | rfl⟩ := mem_interleave hv <;> obtain ⟨k, _, rfl⟩ := List.mem_map.1 hbin
  · exact (h.isZeroBin_mirrorBin hY k).1
  · exact (h.isZeroBin_mirrorBin hY k).2

end

theorem keepsZeros_numReal (top : Nat) : numReal.KeepsZeros top where
  zero := by simp
  neg := by simp
  add := by simp +contextual
  sub := by simp +contextual
  isZeroBin_twiddle := by simp +contextual [Num.IsZeroBin, twiddle]

/-! ## Zeros in NUM_B64 -/

section
variable {a b : B64}

theorem isZero_of_value_eq_zero (h : (f64Value a : ℝ) = 0) : f64IsZero a = true := by
  have hreal : (f64Units a : ℝ) = 0 := by rw [← f64Value_scaled, h, zero_mul]
  have hunits : f64Units a = 0 := Int.cast_eq_zero.1 hreal
  rw [← f64Mag_eq_zero_iff]
  rw [f64Units] at hunits
  split at hunits <;> omega

/-- Nothing but a zero is nearest to 0. -/
theorem isZero_of_correctlyRounded_zero (h : correctlyRounded 0 a) : f64IsZero a = true := by
  have hf := isFinite_of_correctlyRounded h (by rw [abs_zero]; positivity)
  exact isZero_of_value_eq_zero
    (value_eq_of_correctlyRounded h hf (m := 0) (e := 0) (by positivity) (by simp))

theorem value_real_of_isZero (h : f64IsZero a = true) : (f64Value a : ℝ) = 0 := by
  rw [f64Value_of_isZero h, Rat.cast_zero]

theorem f64IsZero_add (ha : f64IsZero a = true) (hb : f64IsZero b = true) :
    f64IsZero (f64Add a b) = true := by
  have h := correctlyRounded_add (f64IsFinite_of_isZero ha) (f64IsFinite_of_isZero hb)
  rw [value_real_of_isZero ha, value_real_of_isZero hb, add_zero] at h
  exact isZero_of_correctlyRounded_zero h

theorem f64IsZero_sub (ha : f64IsZero a = true) (hb : f64IsZero b = true) :
    f64IsZero (f64Sub a b) = true := by
  have h := correctlyRounded_sub (f64IsFinite_of_isZero ha) (f64IsFinite_of_isZero hb)
  rw [value_real_of_isZero ha, value_real_of_isZero hb, sub_zero] at h
  exact isZero_of_correctlyRounded_zero h

/-- A finite number times a zero is a zero. -/
theorem f64IsZero_mul (ha : f64IsFinite a = true) (hb : f64IsZero b = true) :
    f64IsZero (f64Mul a b) = true := by
  have h := correctlyRounded_mul ha (f64IsFinite_of_isZero hb)
  rw [value_real_of_isZero hb, mul_zero] at h
  exact isZero_of_correctlyRounded_zero h

theorem f64Neg_neg (a : B64) : f64Neg (f64Neg a) = a := by
  rw [f64Neg, f64Neg, BitVec.xor_assoc, BitVec.xor_self, BitVec.xor_zero]

theorem f64WithinOne_sin (ha : f64IsFinite a = true) : F64WithinOne (f64Sin a) := by
  rw [f64Sin, f64IsNaN_of_finite ha, f64IsInf_of_finite ha, if_neg (by decide)]
  split_ifs with hz
  · exact ⟨ha, by rw [value_real_of_isZero hz, abs_zero]; exact zero_le_one⟩
  · exact f64WithinOne_make _ (Nat.min_le_right _ _)
  · exact f64WithinOne_make _ (Nat.le_of_lt_succ (Nat.mod_lt _ (Nat.succ_pos _)))

end

/-- A twiddle turns by the angle 2 pi k / M, computed as the Hann shape computes its own. -/
theorem twiddle_numB64 (M k : Nat) (o : B64 × B64) : twiddle numB64 M k o =
    (f64Sub (f64Mul (f64Cos (hannAngle M k)) o.1) (f64Mul (f64Neg (f64Sin (hannAngle M k))) o.2),
      f64Add (f64Mul (f64Cos (hannAngle M k)) o.2)
        (f64Mul (f64Neg (f64Sin (hannAngle M k))) o.1)) := by
  simp only [twiddle, hannAngle, numB64_sub, numB64_add, numB64_mul, numB64_div, numB64_neg,
    numB64_cos, numB64_sin, numB64_two, numB64_pi, numB64_ofInt]

theorem f64IsFinite_hannAngle {M : Nat} (hM : 0 < M) (hM' : M < 2 ^ 53) (hk : k < 2 ^ 53) :
    f64IsFinite (hannAngle M k) = true := by
  rw [hannAngle]
  obtain ⟨hf, hlo, hhi⟩ := two_pi_bounds
  obtain ⟨hkf, hkv⟩ := f64OfInt_exact hk
  obtain ⟨hMf, hMv⟩ := f64OfInt_exact hM'
  replace hlo := Rat.cast_lt (K := ℝ).2 hlo
  replace hhi := Rat.cast_lt (K := ℝ).2 hhi
  push_cast at hlo hhi
  generalize f64Mul f64Two f64Pi = c at *
  have hkR : (k : ℝ) ≤ 2 ^ 53 := by exact_mod_cast hk.le
  have hMR : (1 : ℝ) ≤ M := by exact_mod_cast hM
  have hprod : |(f64Value c : ℝ) * f64Value (f64OfInt k)| ≤ 2 ^ 56 := by
    rw [hkv, abs_of_nonneg (by positivity)]
    nlinarith
  obtain ⟨hpf, hpnear⟩ := rounded_mul hf hkf (by linarith)
  generalize f64Mul c (f64OfInt k) = p at *
  have hp : |(f64Value p : ℝ)| ≤ 2 ^ 57 := by
    have hdist := abs_sub_abs_le_abs_sub (f64Value p : ℝ) (f64Value c * f64Value (f64OfInt k))
    linarith
  refine (rounded_div hpf hMf (by rw [hMv]; linarith) ?_).finite
  rw [hMv, abs_div, Nat.abs_cast]
  have hquot := div_le_self (abs_nonneg (f64Value p : ℝ)) hMR
  linarith

/-- A finite angle turns zeros into zeros. -/
theorem isZeroBin_twiddle_numB64 {M : Nat} {o : B64 × B64}
    (hangle : f64IsFinite (hannAngle M k) = true) (ho : numB64.IsZeroBin o) :
    numB64.IsZeroBin (twiddle numB64 M k o) := by
  obtain ⟨hre, him⟩ := ho
  obtain ⟨hcos, _⟩ := f64WithinOne_cos hangle
  obtain ⟨hsin, _⟩ := f64WithinOne_sin hangle
  rw [← f64IsFinite_neg] at hsin
  rw [twiddle_numB64]
  exact ⟨f64IsZero_sub (f64IsZero_mul hcos hre) (f64IsZero_mul hsin him),
    f64IsZero_add (f64IsZero_mul hcos him) (f64IsZero_mul hsin hre)⟩

theorem keepsZeros_numB64 : numB64.KeepsZeros 30 where
  zero := by decide
  neg {a} h := (f64IsZero_neg a).trans h
  add := f64IsZero_add
  sub := f64IsZero_sub
  isZeroBin_twiddle {m k o} hm hk ho := by
    have hM : 2 ^ (m + 1) ≤ 2 ^ 30 := Nat.pow_le_pow_right Nat.two_pos hm
    have hlt : 2 ^ m < 2 ^ (m + 1) := Nat.pow_lt_pow_succ Nat.one_lt_two
    exact isZeroBin_twiddle_numB64
      (f64IsFinite_hannAngle (Nat.two_pow_pos _) (by omega) (by omega)) ho

/-- Settles O55: the mirror makes the symmetry exact over every record, and both records keep zeros
through the recursion. -/
theorem defaultFftIsHermitian : Obligations.DefaultFftIsHermitian := by
  refine ⟨fftHerm_fftDefault neg_neg (by simp), fun top => (keepsZeros_numReal top).fftZero,
    fftHerm_fftDefault f64Neg_neg (by decide), keepsZeros_numB64.fftZero, fun num m x _ => ?_⟩
  exact ⟨fun k h1 hk => elem_fftDefault_mirror num x h1 (half_two_pow_succ m ▸ hk),
    elem_fftDefault_edges num x m⟩

end Sys2Proof.Machine
end

section
/-!
SUPPORT. The conjugator and the complex multiplier (43_cmac.md): the bins CONJ c and CMUL k write,
and what the commands do with them on a configured block.
-/

namespace Sys2Proof.Machine

open Sys2Proof.Claims

variable {F : Type} {p : Params F} {b : Block F} {c : Channel} {k : Spectrum} {i : Nat} {s : State}

/-- The lengths of CONJ and INST on a block that has an estimator (10_state.md R37). -/
theorem conj_inst_lengths_of_ready {b : Block B64} (h : ready b) :
    (∀ c, (b.conj.get c).length = 2 * b.fftLen) ∧ ∀ k, (b.inst.get k).length = 2 * b.fftLen := by
  obtain ⟨hconf, hsized, _, _⟩ := h
  rw [Block.sized, if_pos hconf, Block.lengthsAre_iff] at hsized
  obtain ⟨_, _, _, hconj, hinst, _⟩ := hsized
  exact ⟨hconj, hinst⟩

/-! ## CONJ c -/

/-- CONJc is all that CONJ c replaces. -/
theorem conjEffect_eq_setConj :
    conjEffect p c b = b.setConj c ((conjEffect p c b).conj.get c) := by
  simp [conjEffect, Block.setConj]

/-- The real part of bin i is copied and its imaginary part negated (43_cmac.md R140). -/
theorem conjEffect_bin (hi : i < b.fftLen) (hlen : (b.conj.get c).length = 2 * b.fftLen) :
    ((conjEffect p c b).conj.get c)[2 * i]? = some (elem p.num (b.spec.get c) (2 * i)) ∧
      ((conjEffect p c b).conj.get c)[2 * i + 1]?
        = some (p.num.neg (elem p.num (b.spec.get c) (2 * i + 1))) := by
  rw [conjEffect, Block.setConj_conj, PerChannel.get_set_same]
  constructor
  · refine storeElems_written ?_ (by omega)
    rw [if_pos (by omega), if_pos (by omega)]
  · refine storeElems_written ?_ (by omega)
    rw [if_pos (by omega), if_neg (by omega)]

theorem isConjugate_conjEffect {b : Block B64} (h : ready b) (c : Channel) :
    isConjugate b.fftLen (b.spec.get c) ((conjEffect params c b).conj.get c) := by
  have hspec := spec_length_of_ready h c
  have hconj := (conj_inst_lengths_of_ready h).1 c
  refine ⟨((conjEffect_keeps params c b).conj c).trans hconj, fun i hi => ?_⟩
  obtain ⟨hre, him⟩ := conjEffect_bin (p := params) hi hconj
  exact ⟨_, _, elem_of_lt _ (by omega), elem_of_lt _ (by omega), hre, him⟩

theorem exec_conj_of_configured (h : s.block.configured = true) (c : Channel) :
    exec (.conj (chanArg c)) s = .next (s.withBlock (conjEffect params c s.block).complete) := by
  rw [exec, execConj, runConj_eq, chanArg, channelOf_number, Option.elim_some, Block.command,
    if_pos h]

/-- Settles O30: the loop writes every bin of CONJc and no other bank. -/
theorem conjNegatesImaginaryParts : Obligations.ConjNegatesImaginaryParts := by
  intro s c h
  have ⟨hconf, _⟩ := h
  have hexec := (exec_conj_of_configured hconf c).trans
    (congrArg (fun b => Host.Outcome.next (s.withBlock b.complete)) conjEffect_eq_setConj)
  exact ⟨_, hexec, isConjugate_conjEffect h c⟩

/-! ## CMUL k -/

/-- INSTk is all that CMUL k replaces. -/
theorem cmulEffect_eq_setInst :
    cmulEffect p k b = b.setInst k ((cmulEffect p k b).inst.get k) := by
  simp [cmulEffect, Block.setInst]

/-- Bin i of the product: four products, one difference, one sum (43_cmac.md R141). -/
theorem cmulElem_bin (num : Num F) (P Q : List F) (i : Nat) :
    cmulElem num P Q (2 * i)
        = num.sub (num.mul (elem num P (2 * i)) (elem num Q (2 * i)))
            (num.mul (elem num P (2 * i + 1)) (elem num Q (2 * i + 1))) ∧
      cmulElem num P Q (2 * i + 1)
        = num.add (num.mul (elem num P (2 * i)) (elem num Q (2 * i + 1)))
            (num.mul (elem num P (2 * i + 1)) (elem num Q (2 * i))) := by
  have heven : 2 * i / 2 = i := by omega
  have hodd : (2 * i + 1) / 2 = i := by omega
  constructor
  · rw [cmulElem, heven, if_pos (by omega), cmulPair]
  · rw [cmulElem, hodd, if_neg (by omega), cmulPair]

/-- The bound 2N - 1 of the loop reaches every pair (43_cmac.md R143). -/
theorem cmulEffect_getElem? (hi : i < 2 * b.fftLen)
    (hlen : (b.inst.get k).length = 2 * b.fftLen) :
    ((cmulEffect p k b).inst.get k)[i]?
      = some (cmulElem p.num (b.spec.get (cmulFirst k)) (b.conj.get (cmulSecond k)) i) := by
  rw [cmulEffect, Block.setInst_inst, PerSpectrum.get_set_same]
  exact storeElems_written (if_pos (by omega)) (by omega)

theorem isProduct_cmulEffect {b : Block B64} (h : ready b) (k : Spectrum) :
    isProduct b.fftLen (b.spec.get (cmulFirst k)) (b.conj.get (cmulSecond k))
      ((cmulEffect params k b).inst.get k) := by
  obtain ⟨hconj, hinst⟩ := conj_inst_lengths_of_ready h
  have hP := spec_length_of_ready h (cmulFirst k)
  have hQ := hconj (cmulSecond k)
  refine ⟨((cmulEffect_keeps params k b).inst k).trans (hinst k), fun i hi => ?_⟩
  obtain ⟨hre, him⟩ :=
    cmulElem_bin params.num (b.spec.get (cmulFirst k)) (b.conj.get (cmulSecond k)) i
  exact ⟨_, _, _, _, elem_of_lt _ (by omega), elem_of_lt _ (by omega), elem_of_lt _ (by omega),
    elem_of_lt _ (by omega), (cmulEffect_getElem? (by omega) (hinst k)).trans (congrArg some hre),
    (cmulEffect_getElem? (by omega) (hinst k)).trans (congrArg some him)⟩

theorem exec_cmul_of_configured (h : s.block.configured = true) (k : Spectrum) :
    exec (.cmul (specArg k)) s = .next (s.withBlock (cmulEffect params k s.block).complete) := by
  rw [exec, execCmul, runCmul_eq, specArg, spectrumOf_number, Option.elim_some, Block.command,
    if_pos h]

/-- CMUL k for every spectrum, its factor banks as the table names them (43_cmac.md R142). -/
theorem exec_cmul_of_ready (h : ready s.block) (k : Spectrum) :
    ∃ l, exec (.cmul (specArg k)) s = .next { s with
        block := { s.block with inst := s.block.inst.set k l, err := .ok } } ∧
      isProduct s.block.fftLen (s.block.spec.get (cmulFirst k)) (s.block.conj.get (cmulSecond k))
        l := by
  have ⟨hconf, _⟩ := h
  have hexec := (exec_cmul_of_configured hconf k).trans
    (congrArg (fun b => Host.Outcome.next (s.withBlock b.complete)) cmulEffect_eq_setInst)
  exact ⟨_, hexec, isProduct_cmulEffect h k⟩

/-- Settles O31: the three rows of the table of factor banks. -/
theorem cmulFormsTheProducts : Obligations.CmulFormsTheProducts :=
  fun _ h => ⟨exec_cmul_of_ready h .cross, exec_cmul_of_ready h .auto0, exec_cmul_of_ready h .auto1⟩

end Sys2Proof.Machine
end

section
/-!
SUPPORT. The smoothing filter (44_smooth.md): the elements SMOOTH k writes, what the command does on
a configured block, and its closed form under NUM_REAL.
-/

namespace Sys2Proof.Machine

open Sys2Proof.Claims

variable {F : Type} {k : Spectrum} {i : Nat}

/-! ## SMOOTH k -/

section
variable {p : Params F} {b : Block F}

/-- ACCk is all that SMOOTH k replaces. -/
theorem smoothEffect_eq_setAcc :
    smoothEffect p k b = b.setAcc k ((smoothEffect p k b).acc.get k) := by
  simp [smoothEffect, Block.setAcc]

/-- Element i of ACCk after SMOOTH k: its old value filtered with element i of INSTk. -/
theorem smoothEffect_getElem? (hi : i < 2 * b.fftLen)
    (hlen : (b.acc.get k).length = 2 * b.fftLen) :
    ((smoothEffect p k b).acc.get k)[i]?
      = some (smoothElem p.num b.alpha (elem p.num (b.acc.get k) i)
          (elem p.num (b.inst.get k) i)) := by
  rw [smoothEffect, Block.setAcc_acc, PerSpectrum.get_set_same]
  exact storeElems_written (if_pos hi) (by omega)

theorem runSmooth_of_configured (h : b.configured = true) :
    runSmooth p (specArg k) b = (smoothEffect p k b).complete := by
  rw [runSmooth_eq, specArg, spectrumOf_number, Option.elim_some, Block.command, if_pos h]

end

/-- The lengths SMOOTH k works with on a block that has an estimator (10_state.md R37). -/
theorem inst_acc_lengths_of_ready {b : Block B64} (h : ready b) (k : Spectrum) :
    (b.inst.get k).length = 2 * b.fftLen ∧ (b.acc.get k).length = 2 * b.fftLen := by
  obtain ⟨hconf, hsized, _, _⟩ := h
  rw [Block.sized, if_pos hconf, Block.lengthsAre_iff] at hsized
  obtain ⟨_, _, _, _, hinst, hacc, _⟩ := hsized
  exact ⟨hinst k, hacc k⟩

theorem isSmoothed_smoothEffect {b : Block B64} (h : ready b) (k : Spectrum) :
    isSmoothed b.fftLen b.alpha (b.acc.get k) (b.inst.get k)
      ((smoothEffect params k b).acc.get k) := by
  obtain ⟨hinst, hacc⟩ := inst_acc_lengths_of_ready h k
  exact ⟨((smoothEffect_keeps params k b).acc k).trans hacc, fun i hi =>
    ⟨_, _, elem_of_lt _ (by omega), elem_of_lt _ (by omega), smoothEffect_getElem? hi hacc⟩⟩

/-- Settles O32: the loop writes every element of ACCk and no other bank. -/
theorem smoothFiltersInPlace : Obligations.SmoothFiltersInPlace := by
  intro s k h
  have ⟨hconf, _⟩ := h
  have hrun : runSmooth params (specArg k) s.block
      = (s.block.setAcc k ((smoothEffect params k s.block).acc.get k)).complete :=
    (runSmooth_of_configured hconf).trans (congrArg Block.complete smoothEffect_eq_setAcc)
  exact ⟨_, congrArg (fun b => Host.Outcome.next (s.withBlock b)) hrun,
    isSmoothed_smoothEffect h k⟩

/-! ## One call under NUM_REAL -/

section
variable {p : Params ℝ} {b : Block ℝ}

/-- One SMOOTH k on the contents I of INSTk (44_smooth.md R150). -/
theorem realElem_runSmooth (hp : p.num = numReal) (hconf : b.configured = true)
    (hlen : (b.acc.get k).length = 2 * b.fftLen) (hi : i < 2 * b.fftLen) (I : List ℝ) :
    realElem (runSmooth p (specArg k) (b.setInst k I)).acc k i
      = b.alpha * realElem b.acc k i + (1 - b.alpha) * I.getD i 0 := by
  have hwritten := smoothEffect_getElem? (p := p) (b := b.setInst k I) hi hlen
  rw [Block.setInst_inst, PerSpectrum.get_set_same, hp] at hwritten
  rw [runSmooth_of_configured (b := b.setInst k I) hconf, Block.complete_acc, realElem,
    List.getD_eq_getElem?_getD, hwritten]
  rfl

theorem smoothings_cons (I : List ℝ) (rest : List (List ℝ)) :
    smoothings p k b (I :: rest)
      = smoothings p k (runSmooth p (specArg k) (b.setInst k I)) rest := rfl

theorem smoothings_append_singleton (inputs : List (List ℝ)) (I : List ℝ) :
    smoothings p k b (inputs ++ [I])
      = runSmooth p (specArg k) ((smoothings p k b inputs).setInst k I) :=
  List.foldl_append ..

/-- The closed form: of n calls, the first one's input is weighted n - 1 times by alpha and the last
one's not at all (44_smooth.md R152). -/
theorem realElem_smoothings (hp : p.num = numReal) (inputs : List (List ℝ))
    (hconf : b.configured = true) (hlen : (b.acc.get k).length = 2 * b.fftLen)
    (hi : i < 2 * b.fftLen) :
    realElem (smoothings p k b inputs).acc k i
      = b.alpha ^ inputs.length * realElem b.acc k i
        + (1 - b.alpha) * ∑ j ∈ Finset.range inputs.length,
            b.alpha ^ (inputs.length - 1 - j) * (inputs.getD j []).getD i 0 := by
  induction inputs generalizing b with
  | nil => simp [smoothings]
  | cons I rest ih =>
    have hrun : runSmooth p (specArg k) (b.setInst k I)
        = (smoothEffect p k (b.setInst k I)).complete := runSmooth_of_configured hconf
    have hkeeps := smoothEffect_keeps p k (b.setInst k I)
    calc realElem (smoothings p k b (I :: rest)).acc k i
        = b.alpha ^ rest.length
              * realElem (runSmooth p (specArg k) (b.setInst k I)).acc k i
            + (1 - b.alpha) * ∑ j ∈ Finset.range rest.length,
                b.alpha ^ (rest.length - 1 - j) * (rest.getD j []).getD i 0 := by
          rw [smoothings_cons, hrun]
          exact ih (b := (smoothEffect p k (b.setInst k I)).complete) hconf
            ((hkeeps.acc k).trans hlen) hi
      _ = _ := by
          rw [realElem_runSmooth hp hconf hlen hi, List.length_cons, Finset.sum_range_succ']
          simp only [List.getD_cons_succ, List.getD_cons_zero, Nat.add_sub_cancel, Nat.sub_zero,
            ← Nat.sub_sub, Nat.sub_right_comm _ _ 1, pow_succ]
          ring

/-! ## A constant input -/

/-- From zero with the constant input x, the sum of the weights is geometric. -/
theorem realElem_smoothings_const (hp : p.num = numReal) {inputs : List (List ℝ)} {x : ℝ}
    (hconf : b.configured = true) (hlen : (b.acc.get k).length = 2 * b.fftLen)
    (hi : i < 2 * b.fftLen) (hx : ∀ I ∈ inputs, I.getD i 0 = x) (hzero : realElem b.acc k i = 0) :
    realElem (smoothings p k b inputs).acc k i = (1 - b.alpha ^ inputs.length) * x := by
  have hinput : ∀ j ∈ Finset.range inputs.length,
      b.alpha ^ (inputs.length - 1 - j) * (inputs.getD j []).getD i 0
        = b.alpha ^ (inputs.length - 1 - j) * x := by
    intro j hj
    have hj' : j < inputs.length := Finset.mem_range.1 hj
    rw [List.getD_eq_getElem inputs [] hj', hx _ (List.getElem_mem hj')]
  rw [realElem_smoothings hp inputs hconf hlen hi, hzero, mul_zero, zero_add,
    Finset.sum_congr rfl hinput, ← Finset.sum_mul,
    Finset.sum_range_reflect (fun j => b.alpha ^ j), ← mul_assoc, mul_neg_geom_sum]

end

/-- A weighted mean of y and x lies between them. -/
theorem movesToward_filtered {a x y : ℝ} (h0 : 0 ≤ a) (h1 : a ≤ 1) :
    movesToward x y (a * y + (1 - a) * x) := by
  constructor <;> intro h <;> constructor
  · linarith [mul_nonneg (sub_nonneg.2 h1) (sub_nonneg.2 h)]
  · linarith [mul_nonneg h0 (sub_nonneg.2 h)]
  · linarith [mul_nonneg h0 (sub_nonneg.2 h)]
  · linarith [mul_nonneg (sub_nonneg.2 h1) (sub_nonneg.2 h)]

/-- What moves from 0 toward x lies between the two, whichever sign x has. -/
theorem between_of_movesToward_zero {x y : ℝ} (h : movesToward x 0 y) :
    min 0 x ≤ y ∧ y ≤ max 0 x := by
  obtain ⟨hup, hdown⟩ := h
  rcases le_total 0 x with hx | hx
  · rw [min_eq_left hx, max_eq_right hx]
    exact hup hx
  · rw [min_eq_right hx, max_eq_left hx]
    exact hdown hx

/-- Settles O56, by induction on the contents of INSTk; the next call on a constant input is one more
content. -/
theorem smoothingHasItsClosedForm : Obligations.SmoothingHasItsClosedForm := by
  intro winGen fft L hL k b inputs i hconf hlen hi
  refine ⟨realElem_smoothings rfl inputs hconf hlen hi, fun x hx hzero => ?_⟩
  have hform :=
    realElem_smoothings_const (p := realParams winGen fft L hL) rfl hconf hlen hi hx hzero
  have hnext : ∀ I ∈ inputs ++ [List.replicate (i + 1) x], I.getD i 0 = x :=
    List.forall_mem_append.2 ⟨hx, by simp⟩
  have hformNext :=
    realElem_smoothings_const (p := realParams winGen fft L hL) rfl hconf hlen hi hnext hzero
  rw [smoothings_append_singleton, List.length_append, List.length_singleton] at hformNext
  rw [hformNext, hform]
  refine ⟨rfl, fun hone => by simp [hone], fun hnull hne => ?_, fun h0 h1 => ?_⟩
  · rw [hnull, zero_pow (by simpa using hne), sub_zero, one_mul]
  · have hbetween : movesToward x 0 ((1 - b.alpha ^ inputs.length) * x) := by
      simpa using movesToward_filtered (x := x) (y := 0) (pow_nonneg h0 _) (pow_le_one₀ h0 h1)
    obtain ⟨hmin, hmax⟩ := between_of_movesToward_zero hbetween
    refine ⟨hmin, hmax, ?_⟩
    convert movesToward_filtered (x := x) (y := (1 - b.alpha ^ inputs.length) * x) h0 h1 using 1
    ring

end Sys2Proof.Machine
end

section
/-!
SUPPORT. TICK (45_decimate_emit.md): the elements that extraction writes and the two it leaves, and
how many TICKs a block has seen since CONFIG.
-/

namespace Sys2Proof.Machine

open Sys2Proof.Claims

variable {F : Type} {p : Params F} {b : Block F} {i m : Nat} {s : State}

/-! ## The effect of TICK -/

theorem tickEffect_of_lt_nine (h : b.cnt.toNat < 9) :
    tickEffect p b = b.setCount (BitVec.ofNat 4 (b.cnt.toNat + 1)) false := by
  rcases tickEffect_cases p b with ⟨_, e⟩ | ⟨hge, _⟩
  · exact e
  · omega

theorem tickEffect_of_nine (h : b.cnt.toNat = 9) :
    tickEffect p b = (extract p b).setCount 0#4 true := by
  rcases tickEffect_cases p b with ⟨hlt, _⟩ | ⟨_, e⟩
  · omega
  · exact e

/-- The counter has four bits, which the tenth count does not use up. -/
theorem nextCount_toNat (h : b.cnt.toNat < 9) :
    (BitVec.ofNat 4 (b.cnt.toNat + 1)).toNat = b.cnt.toNat + 1 := by
  rw [BitVec.toNat_ofNat, Nat.mod_eq_of_lt (by omega)]

theorem exec_tick_of_configured (h : s.block.configured = true) :
    exec .tick s = .next (s.withBlock (tickEffect params s.block).complete) := by
  rw [exec, execTick, runTick, Block.command, if_pos h]

/-- Settles O33: below nine the effect is the count alone. -/
theorem tickCountsBelowTen : Obligations.TickCountsBelowTen := by
  intro s hconf hcnt
  refine ⟨_, nextCount_toNat hcnt, ?_⟩
  rw [exec_tick_of_configured hconf, tickEffect_of_lt_nine hcnt]
  rfl

/-! ## What extraction writes -/

theorem extractCross_dc (num : Num F) (h : 2 ≤ b.fftLen) :
    extractCross num b 0 = some (num.div (elem num b.acc.cross 0) b.afs) := by
  rw [extractCross, if_neg (by omega), if_neg (by omega), if_pos rfl, Block.endDivisor]

theorem extractCross_nyquist (num : Num F) (b : Block F) :
    extractCross num b b.fftLen = some (num.div (elem num b.acc.cross b.fftLen) b.afs) := by
  rw [extractCross, if_neg (by omega), if_pos rfl, Block.endDivisor]

theorem extractCross_interior (num : Num F) (h2 : 2 ≤ i) (hN : i < b.fftLen) :
    extractCross num b i
      = some (num.div (elem num b.acc.cross i) (num.mul num.two b.afs)) := by
  rw [extractCross, if_pos ⟨h2, hN⟩, Block.interiorDivisor]

theorem extractAuto_dc (num : Num F) (A : List F) (h : 2 ≤ b.fftLen) :
    extractAuto num b A 0 = some (num.div (elem num A 0) b.afs) := by
  rw [extractAuto, if_neg (by omega), if_neg (by omega), if_pos rfl, Block.endDivisor]

/-- The last bin takes element N - 1, an imaginary part (45_decimate_emit.md R163). -/
theorem extractAuto_nyquist (num : Num F) (b : Block F) (A : List F) :
    extractAuto num b A (b.fftLen / 2) = some (num.div (elem num A (b.fftLen - 1)) b.afs) := by
  rw [extractAuto, if_neg (by omega), if_pos rfl, Block.endDivisor]

theorem extractAuto_interior (num : Num F) (A : List F) (h1 : 1 ≤ i) (hN : i < b.fftLen / 2 - 1) :
    extractAuto num b A i = some (num.div (elem num A (2 * i)) (num.mul num.two b.afs)) := by
  rw [extractAuto, if_pos ⟨h1, hN⟩, Block.interiorDivisor]

/-! ## The rows of an emission -/

/-- A loop that writes element j of a bank A, divided by d, at element i of another. -/
theorem storeElems_scaled (num : Num F) {v : Nat → Option F} {A old : List F} {j : Nat} {d : F}
    (hv : v i = some (num.div (elem num A j) d)) (hi : i < old.length) (hj : j < A.length) :
    (storeElems v old)[i]? = A[j]?.map fun x => num.div x d := by
  rw [storeElems_written hv hi, elem_of_lt num hj, Option.map_some]

theorem isCrossRow_extractCross {b : Block B64} {old : List B64} (hN : 2 ≤ b.fftLen)
    (hA : b.acc.cross.length = 2 * b.fftLen) (hold : old.length = b.fftLen + 2) :
    isCrossRow b.fftLen b.afs b.acc.cross old (storeElems (extractCross numB64 b) old) :=
  ⟨(storeElems_length _ _).trans hold,
    storeElems_scaled numB64 (extractCross_dc numB64 hN) (by omega) (by omega),
    storeElems_scaled numB64 (extractCross_nyquist numB64 b) (by omega) (by omega),
    fun _ h2 hi =>
      storeElems_scaled numB64 (extractCross_interior numB64 h2 hi) (by omega) (by omega),
    storeElems_kept old (extractCross_dc_imag numB64 hN),
    storeElems_kept old (extractCross_nyquist_imag numB64 b)⟩

theorem isAutoRow_extractAuto {b : Block B64} {A old : List B64} (hN : 2 ≤ b.fftLen)
    (hA : A.length = 2 * b.fftLen) (hold : old.length = b.fftLen / 2 + 1) :
    isAutoRow b.fftLen b.afs A old (storeElems (extractAuto numB64 b A) old) :=
  ⟨(storeElems_length _ _).trans hold,
    storeElems_scaled numB64 (extractAuto_dc numB64 A hN) (by omega) (by omega),
    storeElems_scaled numB64 (extractAuto_nyquist numB64 b A) (by omega) (by omega),
    fun _ h1 hi =>
      storeElems_scaled numB64 (extractAuto_interior numB64 A h1 hi) (by omega) (by omega),
    fun h4 => storeElems_kept old (extractAuto_gap numB64 A h4)⟩

/-- The lengths of OUT on a block that has an estimator (10_state.md R37). -/
theorem out_lengths_of_ready {b : Block B64} (h : ready b) :
    b.out.cross.length = b.fftLen + 2 ∧ b.out.auto0.length = b.fftLen / 2 + 1 ∧
      b.out.auto1.length = b.fftLen / 2 + 1 := by
  obtain ⟨hconf, hsized, _, _⟩ := h
  rw [Block.sized, if_pos hconf, Block.lengthsAre_iff] at hsized
  obtain ⟨_, _, _, _, _, _, hout⟩ := hsized
  exact hout

theorem isEmission_extract {b : Block B64} (h : ready b) :
    isEmission b.fftLen b.afs b.acc b.out (extract params b).out := by
  have ⟨_, _, _, hN⟩ := h
  have hacc := fun k => (inst_acc_lengths_of_ready h k).2
  obtain ⟨hcross, hauto0, hauto1⟩ := out_lengths_of_ready h
  exact ⟨isCrossRow_extractCross hN (hacc .cross) hcross,
    isAutoRow_extractAuto hN (hacc .auto0) hauto0, isAutoRow_extractAuto hN (hacc .auto1) hauto1⟩

/-- Settles O34: at nine the effect is the extraction and the new count. -/
theorem tickEmitsOnTheTenth : Obligations.TickEmitsOnTheTenth := by
  intro s h hcnt
  have ⟨hconf, _⟩ := h
  refine ⟨_, ?_, isEmission_extract h⟩
  rw [exec_tick_of_configured hconf, tickEffect_of_nine (congrArg BitVec.toNat hcnt)]
  rfl

/-! ## What extraction never writes -/

/-- Elements 1 and N + 1 of OUT0, and element N/2 - 1 of OUT1 and OUT2, by the bank's number
(45_decimate_emit.md R164). -/
theorem Block.EstimatorOk.unwritten_out {b : Block B64} (ok : b.EstimatorOk params) {n : Nat}
    (h : (n = 15 ∧ (i = 1 ∨ i = b.fftLen + 1)) ∨
      (4 ≤ b.fftLen ∧ (n = 16 ∨ n = 17) ∧ i = b.fftLen / 2 - 1)) :
    ∃ l, bankElems b n = some l ∧ l[i]? = some 0#64 := by
  rcases h with ⟨rfl, rfl | rfl⟩ | ⟨hN, rfl | rfl, rfl⟩
  · exact ⟨_, rfl, ok.out_dc_imag⟩
  · exact ⟨_, rfl, ok.out_nyquist_imag⟩
  · exact ⟨_, rfl, ok.out_gap0 hN⟩
  · exact ⟨_, rfl, ok.out_gap1 hN⟩

/-- Settles O41: the invariant holds the elements at +0, and a MemRead answers them. -/
theorem unwrittenOutputElementsReadZero : Obligations.UnwrittenOutputElementsReadZero := by
  intro s n i rest hs hconf hpending hi
  obtain ⟨l, hbank, hzero⟩ := (hs.configured_ok hconf).unwritten_out hi
  obtain ⟨hdense, _⟩ := memReadReturnsTheElement
  rw [hdense s n i l rest hpending hbank, hzero]

/-! ## The count since CONFIG -/

/-- The block m counts after a CONFIG that ended OK: the last command ended OK too, CNT is m mod 10,
and OUT_VALID says whether the last count was a tenth (45_decimate_emit.md R167). -/
structure Block.Counted (m : Nat) (b : Block F) : Prop where
  configured : b.configured = true
  err_ok : b.err = .ok
  count : b.cnt.toNat = m % 10
  outValid_iff : b.outValid = true ↔ 0 < m ∧ m % 10 = 0

/-- One more count, by TICK or by the last step of PROCESS. -/
theorem counted_tickEffect (p : Params F) (hconf : b.configured = true)
    (hcnt : b.cnt.toNat = m % 10) : (tickEffect p b).complete.Counted (m + 1) := by
  have hconf' : (tickEffect p b).complete.configured = true :=
    (tickEffect_configured p b).trans hconf
  by_cases h9 : b.cnt.toNat < 9
  · have heffect := tickEffect_of_lt_nine (p := p) h9
    have hnext := nextCount_toNat h9
    refine ⟨hconf', rfl, ?_, iff_of_false ?_ (by omega)⟩ <;> rw [heffect]
    · exact hnext.trans (by omega)
    · exact Bool.false_ne_true
  · have heffect := tickEffect_of_nine (p := p) (b := b) (by omega)
    refine ⟨hconf', rfl, ?_, iff_of_true ?_ (by omega)⟩ <;> rw [heffect]
    · change 0 = (m + 1) % 10
      omega
    · rfl

/-- A CONFIG that ended OK constructed its estimator: both failures raise their code. -/
theorem runConfig_of_ok (h : (runConfig p b).err = .ok) :
    runConfig p b = ((b.destroy p.num.zero).construct p).complete := by
  rcases runConfig_cases p b with ⟨_, e⟩ | ⟨_, _, e⟩ | ⟨_, _, e⟩
  · rw [e] at h
    cases h
  · rw [e] at h
    cases h
  · exact e

theorem counted_runConfig (h : (runConfig p b).err = .ok) : (runConfig p b).Counted 0 := by
  rw [runConfig_of_ok h]
  exact ⟨rfl, rfl, rfl, iff_of_false Bool.false_ne_true (by omega)⟩

theorem execAll_replicate_tick (n : Nat) (h : s.block.Counted m) :
    ∃ u, execAll (List.replicate n .tick) s = .next u ∧ u.block.Counted (m + n) := by
  induction n generalizing m s with
  | zero => exact ⟨s, rfl, h⟩
  | succ n ih =>
    obtain ⟨u, hrun, hu⟩ := ih (s := s.withBlock (tickEffect params s.block).complete)
      (counted_tickEffect params h.configured h.count)
    refine ⟨u, ?_, by rwa [Nat.add_assoc, Nat.add_comm 1 n] at hu⟩
    rw [List.replicate_succ, execAll, exec_tick_of_configured h.configured]
    exact hrun

/-- Settles O46: CONFIG starts the count, and each TICK adds one to it. -/
theorem ticksCountModuloTen : Obligations.TicksCountModuloTen := by
  intro s t ht hok m
  cases ht
  obtain ⟨u, hrun, hu⟩ := execAll_replicate_tick
    (s := s.withBlock (runConfig params s.block)) m (counted_runConfig hok)
  rw [Nat.zero_add] at hu
  exact ⟨u, hrun, hu.err_ok, hu.count, hu.outValid_iff⟩

end Sys2Proof.Machine
end

section
/-!
SUPPORT. One call of PROCESS (46_process.md R180): the bank each step leaves, element by element and
over any parameters, the count and emission at its end, and when a call is accepted and completes.
-/

namespace Sys2Proof.Machine

open Sys2Proof.Claims

variable {F : Type} {p : Params F} {b b' d : Block F} {c : Channel} {k : Spectrum} {i : Nat}
  {rows : PerChannel (List F)}

/-!
## The bank of a step

No unit of a step reads the bank that another unit of the same step writes.
-/

theorem fftStep_spec_get (p : Params F) (b : Block F) (c : Channel) :
    (fftStep p b).spec.get c = (fftEffect p c b).spec.get c := by cases c <;> rfl

theorem conjStep_conj_get (p : Params F) (b : Block F) (c : Channel) :
    (conjStep p b).conj.get c = (conjEffect p c b).conj.get c := by cases c <;> rfl

theorem cmulStep_inst_get (p : Params F) (b : Block F) (k : Spectrum) :
    (cmulStep p b).inst.get k = (cmulEffect p k b).inst.get k := by cases k <;> rfl

theorem smoothStep_acc_get (p : Params F) (b : Block F) (k : Spectrum) :
    (smoothStep p b).acc.get k = (smoothEffect p k b).acc.get k := by cases k <;> rfl

theorem fftStep_keeps (p : Params F) (b : Block F) : b.Keeps (fftStep p b) :=
  (fftEffect_keeps p _ b).trans (fftEffect_keeps p _ _)

theorem conjStep_keeps (p : Params F) (b : Block F) : b.Keeps (conjStep p b) :=
  (conjEffect_keeps p _ b).trans (conjEffect_keeps p _ _)

theorem cmulStep_keeps (p : Params F) (b : Block F) : b.Keeps (cmulStep p b) :=
  ((cmulEffect_keeps p _ b).trans (cmulEffect_keeps p _ _)).trans (cmulEffect_keeps p _ _)

theorem Block.keeps_complete (b : Block F) : b.Keeps b.complete := { Block.Keeps.refl b with }

/-! ## Lengths -/

/-- A block with an estimator and every bank at its length (10_state.md R20, R37). -/
structure Block.Built (b : Block F) : Prop where
  configured : b.configured = true
  xbuf : ∀ c, (b.xbuf.get c).length = b.fftLen
  spec : ∀ c, (b.spec.get c).length = 2 * b.fftLen
  conj : ∀ c, (b.conj.get c).length = 2 * b.fftLen
  inst : ∀ k, (b.inst.get k).length = 2 * b.fftLen
  acc : ∀ k, (b.acc.get k).length = 2 * b.fftLen
  out_auto0 : (b.out.get .auto0).length = b.fftLen / 2 + 1
  out_auto1 : (b.out.get .auto1).length = b.fftLen / 2 + 1

theorem Block.built_of_sized (hc : b.configured = true) (hs : b.sized = true) : b.Built := by
  rw [Block.sized, if_pos hc, Block.lengthsAre_iff] at hs
  obtain ⟨_, hxbuf, hspec, hconj, hinst, hacc, _, hauto0, hauto1⟩ := hs
  exact ⟨hc, hxbuf, hspec, hconj, hinst, hacc, hauto0, hauto1⟩

theorem Block.Keeps.built (h : b.Keeps d) (hb : b.Built) : d.Built where
  configured := h.configured.trans hb.configured
  xbuf c := by rw [h.xbuf, h.fftLen, hb.xbuf]
  spec c := by rw [h.spec, h.fftLen, hb.spec]
  conj c := by rw [h.conj, h.fftLen, hb.conj]
  inst k := by rw [h.inst, h.fftLen, hb.inst]
  acc k := by rw [h.acc, h.fftLen, hb.acc]
  out_auto0 := by rw [h.out, h.fftLen, hb.out_auto0]
  out_auto1 := by rw [h.out, h.fftLen, hb.out_auto1]

theorem Block.Keeps.ready {b d : Block B64} (h : b.Keeps d) (hb : ready b) : ready d := by
  obtain ⟨hconf, hsized, hBN, hN⟩ := hb
  exact ⟨h.configured.trans hconf, h.sized.trans hsized, by rwa [h.blockLen, h.fftLen],
    by rwa [h.fftLen]⟩

/-! ## The whole call -/

/-- The rows a call reads, one for each channel. -/
def Block.ReadsRows (b : Block F) (rows : PerChannel (List F)) : Prop :=
  ∀ c, readRow (b.inp.get c) b.blockLen 0 = .ok (rows.get c)

/-- Step 1 of a call: both rows windowed. -/
def Block.windowRows (num : Num F) (rows : PerChannel (List F)) (b : Block F) : Block F :=
  (b.windowRow num .ch0 rows.ch0).windowRow num .ch1 rows.ch1

/-- The block after a call that has read these rows. -/
def Block.afterCall (p : Params F) (rows : PerChannel (List F)) (b : Block F) : Block F :=
  (tickEffect p (spectralSteps p (b.windowRows p.num rows))).complete

theorem windowRows_xbuf_get (num : Num F) (rows : PerChannel (List F)) (b : Block F) (c : Channel) :
    (b.windowRows num rows).xbuf.get c = (b.windowRow num c (rows.get c)).xbuf.get c := by
  cases c <;> rfl

theorem windowRows_cnt (num : Num F) (rows : PerChannel (List F)) (b : Block F) :
    (b.windowRows num rows).cnt = b.cnt := by simp [Block.windowRows]

theorem windowRows_out (num : Num F) (rows : PerChannel (List F)) (b : Block F) :
    (b.windowRows num rows).out = b.out := by simp [Block.windowRows]

theorem windowRows_keeps (num : Num F) (rows : PerChannel (List F)) (b : Block F) :
    b.Keeps (b.windowRows num rows) :=
  (windowRow_keeps num _ _ b).trans (windowRow_keeps num _ _ _)

theorem afterCall_keeps (p : Params F) (rows : PerChannel (List F)) (b : Block F) :
    b.Keeps (b.afterCall p rows) :=
  (((windowRows_keeps p.num rows b).trans (spectralSteps_keeps p _)).trans
    (tickEffect_keeps p _)).trans (Block.keeps_complete _)

section
variable (p) (rows) (b)

theorem afterCall_hostPart : (b.afterCall p rows).hostPart = b.hostPart := by
  simp [Block.hostPart, Block.afterCall, Block.windowRows]

theorem afterCall_xbuf_get (c : Channel) :
    (b.afterCall p rows).xbuf.get c = (b.windowRow p.num c (rows.get c)).xbuf.get c := by
  rw [Block.afterCall, Block.complete_xbuf, tickEffect_xbuf, spectralSteps_xbuf,
    windowRows_xbuf_get]

theorem afterCall_spec :
    (b.afterCall p rows).spec = (fftStep p (b.windowRows p.num rows)).spec := by
  rw [Block.afterCall, Block.complete_spec, tickEffect_spec, spectralSteps, smoothStep_spec,
    cmulStep_spec, conjStep_spec]

theorem afterCall_conj :
    (b.afterCall p rows).conj = (conjStep p (fftStep p (b.windowRows p.num rows))).conj := by
  rw [Block.afterCall, Block.complete_conj, tickEffect_conj, spectralSteps, smoothStep_conj,
    cmulStep_conj]

theorem afterCall_inst : (b.afterCall p rows).inst
    = (cmulStep p (conjStep p (fftStep p (b.windowRows p.num rows)))).inst := by
  rw [Block.afterCall, Block.complete_inst, tickEffect_inst, spectralSteps, smoothStep_inst]

theorem afterCall_acc : (b.afterCall p rows).acc = (spectralSteps p (b.windowRows p.num rows)).acc := by
  rw [Block.afterCall, Block.complete_acc, tickEffect_acc]

/-- What the last step does: count, or count the tenth and emit the accumulator the call leaves
(46_process.md R180, R183). -/
theorem afterCall_tick_cases :
    (b.cnt.toNat + 1 < 10 ∧ (b.afterCall p rows).cnt.toNat = b.cnt.toNat + 1 ∧
      (b.afterCall p rows).outValid = false ∧ (b.afterCall p rows).out = b.out) ∨
    (10 ≤ b.cnt.toNat + 1 ∧ (b.afterCall p rows).cnt = 0#4 ∧
      (b.afterCall p rows).outValid = true ∧
      ∃ e, b.Keeps e ∧ e.acc = (b.afterCall p rows).acc ∧ e.out = b.out ∧
        (b.afterCall p rows).out = (extract p e).out) := by
  have hkeeps := (windowRows_keeps p.num rows b).trans (spectralSteps_keeps p _)
  have hacc := afterCall_acc p b rows
  have hcnt : (spectralSteps p (b.windowRows p.num rows)).cnt = b.cnt := by
    rw [spectralSteps_cnt, windowRows_cnt]
  have hout : (spectralSteps p (b.windowRows p.num rows)).out = b.out := by
    rw [spectralSteps_out, windowRows_out]
  rw [Block.afterCall] at hacc ⊢
  generalize spectralSteps p (b.windowRows p.num rows) = e at *
  rcases tickEffect_cases p e with ⟨hlt, htick⟩ | ⟨hge, htick⟩ <;> rw [htick] at hacc ⊢
  · rw [hcnt] at hlt ⊢
    rw [Block.complete_cnt, Block.setCount_cnt, nextCount_toNat (by omega), Block.complete_out,
      Block.setCount_out]
    exact .inl ⟨hlt, rfl, rfl, hout⟩
  · exact .inr ⟨hcnt ▸ hge, rfl, rfl, e, hkeeps, hacc.symm, hout, rfl⟩

end

/-- The banks a call leaves, each made of the one before it (46_process.md R180). -/
structure Block.Called (p : Params F) (rows : PerChannel (List F)) (b d : Block F) : Prop where
  keeps : b.Keeps d
  windowed : ∀ c n, n < b.blockLen → n < b.fftLen → (d.xbuf.get c)[n]?
    = some (p.num.mul (elem p.num (rows.get c) n) (elem p.num b.win n))
  padded : ∀ c n, b.blockLen ≤ n → n < b.fftLen → (d.xbuf.get c)[n]? = some p.num.zero
  transformed : ∀ c i, i < 2 * b.fftLen → (d.spec.get c)[i]?
    = some (elem p.num (p.fft b.fftLen (d.xbuf.get c)) i)
  conjugated : ∀ c i, i < b.fftLen →
    (d.conj.get c)[2 * i]? = some (elem p.num (d.spec.get c) (2 * i)) ∧
    (d.conj.get c)[2 * i + 1]? = some (p.num.neg (elem p.num (d.spec.get c) (2 * i + 1)))
  multiplied : ∀ k i, i < 2 * b.fftLen → (d.inst.get k)[i]?
    = some (cmulElem p.num (d.spec.get (cmulFirst k)) (d.conj.get (cmulSecond k)) i)
  smoothed : ∀ k i, i < 2 * b.fftLen → (d.acc.get k)[i]?
    = some (smoothElem p.num b.alpha (elem p.num (b.acc.get k) i) (elem p.num (d.inst.get k) i))

/-- Two banks of one length with the same elements. -/
theorem ext_of_length {l l' : List F} {n : Nat} (hl : l.length = n) (hl' : l'.length = n)
    (h : ∀ i, i < n → l[i]? = l'[i]?) : l = l' := by
  refine List.ext_getElem? fun i => ?_
  rcases Nat.lt_or_ge i n with hi | hi
  · exact h i hi
  · rw [List.getElem?_eq_none (by omega), List.getElem?_eq_none (by omega)]

theorem elem_eq_of_getElem? (num : Num F) {l : List F} {n : Nat} {v : F}
    (h : l[n]? = some v) : elem num l n = v := by
  rw [elem, List.getD_eq_getElem?_getD, h, Option.getD_some]

/-- Element i of SPECc after FFT c, whatever length the transform returns. -/
theorem fftEffect_getElem? (hx : (b.xbuf.get c).length = b.fftLen)
    (hs : (b.spec.get c).length = 2 * b.fftLen) (hi : i < 2 * b.fftLen) :
    ((fftEffect p c b).spec.get c)[i]?
      = some (elem p.num (p.fft b.fftLen (b.xbuf.get c)) i) := by
  rw [fftEffect, firstElems_eq_self p.num hx, Block.setSpec_spec, PerChannel.get_set_same]
  exact storeElems_written (if_pos hi) (hs ▸ hi)

/-- Each step runs its unit on the block the steps before it left. -/
theorem Block.Built.afterCall (hb : b.Built) (rows : PerChannel (List F)) :
    b.Called p rows (b.afterCall p rows) := by
  have hw := windowRows_keeps p.num rows b
  have hf := hw.trans (fftStep_keeps p _)
  have hc := hf.trans (conjStep_keeps p _)
  have hm := hc.trans (cmulStep_keeps p _)
  refine ⟨afterCall_keeps p rows b, fun c n hB hN => ?_, fun c n hB hN => ?_, fun c i hi => ?_,
    fun c i hi => ?_, fun k i hi => ?_, fun k i hi => ?_⟩
  · rw [afterCall_xbuf_get]
    exact windowRow_getElem?_of_lt_blockLen p.num hB (hb.xbuf c ▸ hN)
  · rw [afterCall_xbuf_get]
    exact windowRow_getElem?_of_blockLen_le p.num hB hN (hb.xbuf c ▸ hN)
  · have h := fftEffect_getElem? (p := p) ((hw.built hb).xbuf c) ((hw.built hb).spec c)
      (by rwa [hw.fftLen])
    rwa [← fftStep_spec_get, ← afterCall_spec, windowRows_xbuf_get, ← afterCall_xbuf_get,
      hw.fftLen] at h
  · have h := conjEffect_bin (p := p) (by rwa [hf.fftLen]) ((hf.built hb).conj c)
    rwa [← conjStep_conj_get, ← afterCall_conj, ← afterCall_spec] at h
  · have h := cmulEffect_getElem? (p := p) (by rwa [hc.fftLen]) ((hc.built hb).inst k)
    rwa [← cmulStep_inst_get, ← afterCall_inst, ← afterCall_conj, conjStep_spec,
      ← afterCall_spec] at h
  · have h := smoothEffect_getElem? (p := p) (by rwa [hm.fftLen]) ((hm.built hb).acc k)
    rw [← smoothStep_acc_get, ← afterCall_inst, hm.alpha, cmulStep_acc, conjStep_acc,
      fftStep_acc] at h
    rw [afterCall_acc]
    exact h

/-! ## When a call completes -/

theorem processEffect_of_readsRows (p : Params F) (h : b.ReadsRows rows) :
    processEffect p b = .ok (tickEffect p (spectralSteps p (b.windowRows p.num rows))) := by
  rcases processEffect_cases p b with ⟨row0, row1, h0, h1, e⟩ | ⟨c, j, hj, _⟩
  · rw [h .ch0] at h0
    rw [h .ch1] at h1
    cases h0
    cases h1
    exact e
  · rw [h c] at hj
    cases hj

/-- Everything PROCESS can end with (46_process.md R181). -/
theorem runProcess_cases (h : runProcess p b = .ok b') :
    (b.configured = false ∧ b' = b.raise .notConfigured) ∨
    (b.configured = true ∧ b.processInputBad = true ∧ b' = b.raise .invalidInput) ∨
    (b.configured = true ∧ b.processInputBad = false ∧
      ∃ rows, b.ReadsRows rows ∧ b' = b.afterCall p rows) := by
  rw [runProcess] at h
  rcases Block.checkedCommand_cases Block.processInputBad (processEffect p) b with
    ⟨hc, e⟩ | ⟨hc, hbad, e⟩ | ⟨hc, hbad, e⟩ <;> rw [e] at h
  · cases h
    exact .inl ⟨hc, rfl⟩
  · cases h
    exact .inr (.inl ⟨hc, hbad, rfl⟩)
  · rcases processEffect_cases p b with ⟨row0, row1, h0, h1, e⟩ | ⟨c, j, _, e⟩ <;> rw [e] at h <;>
      cases h
    exact .inr (.inr ⟨hc, hbad, ⟨row0, row1⟩, forall_channel.2 ⟨h0, h1⟩, rfl⟩)

/-- A call that ends without an error has run. -/
theorem runProcess_of_ok (h : runProcess p b = .ok b') (hok : b'.err = .ok) :
    b.processInputBad = false ∧ ∃ rows, b.ReadsRows rows ∧ b' = b.afterCall p rows := by
  rcases runProcess_cases h with ⟨_, rfl⟩ | ⟨_, _, rfl⟩ | ⟨_, hbad, hrun⟩
  · cases hok
  · cases hok
  · exact ⟨hbad, hrun⟩

theorem Block.exists_readsRows (h : ∀ c, b.rowWritten c) : ∃ rows, b.ReadsRows rows := by
  have hread : ∀ c, ∃ row, readRow (b.inp.get c) b.blockLen 0 = .ok row := fun c =>
    readRow_of_written fun n _ hn => h c n (by omega)
  obtain ⟨row0, h0⟩ := hread .ch0
  obtain ⟨row1, h1⟩ := hread .ch1
  exact ⟨⟨row0, row1⟩, forall_channel.2 ⟨h0, h1⟩⟩

theorem Block.ReadsRows.rowWritten (h : b.ReadsRows rows) (c : Channel) : b.rowWritten c := by
  intro n hn
  obtain ⟨hread, hsome⟩ := (readRow_ok (h c)).2 n hn
  rwa [hread, Nat.zero_add] at hsome

theorem Block.CallReady.runProcess_eq (h : b.CallReady) (hr : b.ReadsRows rows) :
    runProcess p b = .ok (b.afterCall p rows) := by
  rw [runProcess, Block.checkedCommand_of_accepted h.configured
    (Block.processInputBad_eq_false_iff.2 ⟨h.channels, h.row0_long, h.row1_long⟩),
    processEffect_of_readsRows p hr]
  rfl

theorem Block.CallReady.exists_readsRows (h : b.CallReady) : ∃ rows, b.ReadsRows rows :=
  Block.exists_readsRows (forall_channel.2 ⟨h.row0_written, h.row1_written⟩)

/-- An accepted call whose rows are written is ready, and otherwise the check names a reason
(46_process.md R180). -/
theorem Block.callReady_of_accepted (hc : b.configured = true) (hbad : b.processInputBad = false)
    (hw : ∀ c, b.rowWritten c) : b.CallReady := by
  obtain ⟨hnch, hlong0, hlong1⟩ := Block.processInputBad_eq_false_iff.1 hbad
  exact ⟨hc, hnch, hlong0, hlong1, hw .ch0, hw .ch1⟩

theorem Block.processInputBad_eq_true_iff :
    b.processInputBad = true ↔ b.nch ≠ 2#32 ∨ (b.inlen.ch0.toNat : Int) < b.ablock.toInt ∨
      (b.inlen.ch1.toNat : Int) < b.ablock.toInt := by
  rw [← Bool.not_eq_false, Block.processInputBad_eq_false_iff, not_and_or, not_and_or, not_le, not_le]

theorem Block.winInputBad_eq_true_iff :
    b.winInputBad c = true ↔
      b.nch ≠ 2#32 ∨ ((b.inlen.get c).toNat : Int) < b.ablock.toInt := by
  rw [← Bool.not_eq_false, Block.winInputBad_eq_false_iff, not_and_or, not_le]

end Sys2Proof.Machine
end

section
/-!
SUPPORT. The symmetry of a call under NUM_REAL (46_process.md R191, 43_cmac.md R144): bins as complex
numbers, of which the steps of a call make conjugates, products and weighted means.
-/

namespace Sys2Proof.Machine

open Sys2Proof.Claims ComplexConjugate

variable {p : Params ℝ} {b b' d : Block ℝ} {rows : PerChannel (List ℝ)} {N i : Nat}
  {l P Q A I : List ℝ}

/-! ## Bins as complex numbers -/

/-- Bin i of an interleaved row (20_memory.md R68). -/
noncomputable def complexBin (l : List ℝ) (i : Nat) : ℂ := ⟨l.getD (2 * i) 0, l.getD (2 * i + 1) 0⟩

/-- Bin N - i is the conjugate of bin i, and so bin 0 its own. -/
def HermitianRow (N : Nat) (l : List ℝ) : Prop :=
  ∀ i, i < N → complexBin l ((N - i) % N) = conj (complexBin l i)

/-- Every bin is real and not negative. -/
def PowerRow (N : Nat) (l : List ℝ) : Prop :=
  ∀ i, i < N → ∃ r : ℝ, 0 ≤ r ∧ complexBin l i = r

theorem hermitianRow_of_mul (hP : HermitianRow N P) (hQ : HermitianRow N Q)
    (h : ∀ i, i < N → complexBin l i = complexBin P i * complexBin Q i) : HermitianRow N l := by
  intro i hi
  rw [h _ (Nat.mod_lt _ (by omega)), h i hi, hP i hi, hQ i hi, map_mul]

theorem hermitianRow_of_conj (hP : HermitianRow N P)
    (h : ∀ i, i < N → complexBin l i = conj (complexBin P i)) : HermitianRow N l := by
  intro i hi
  rw [h _ (Nat.mod_lt _ (by omega)), h i hi, hP i hi]

theorem hermitianRow_of_filtered {a c : ℝ} (hA : HermitianRow N A) (hI : HermitianRow N I)
    (h : ∀ i, i < N → complexBin l i = a * complexBin A i + c * complexBin I i) :
    HermitianRow N l := by
  intro i hi
  rw [h _ (Nat.mod_lt _ (by omega)), h i hi, hA i hi, hI i hi, map_add, map_mul, map_mul,
    Complex.conj_ofReal, Complex.conj_ofReal]

/-- A bin times its conjugate is the square of its magnitude. -/
theorem powerRow_of_mul_conj
    (h : ∀ i, i < N → complexBin l i = complexBin P i * conj (complexBin P i)) : PowerRow N l :=
  fun i hi => ⟨_, Complex.normSq_nonneg _, (h i hi).trans (Complex.mul_conj _)⟩

theorem powerRow_of_filtered {a c : ℝ} (ha : 0 ≤ a) (hc : 0 ≤ c) (hA : PowerRow N A)
    (hI : PowerRow N I)
    (h : ∀ i, i < N → complexBin l i = a * complexBin A i + c * complexBin I i) :
    PowerRow N l := by
  intro i hi
  obtain ⟨y, hy, ey⟩ := hA i hi
  obtain ⟨x, hx, ex⟩ := hI i hi
  refine ⟨a * y + c * x, by positivity, ?_⟩
  rw [h i hi, ey, ex]
  push_cast
  rfl

/-! ## The two forms of the symmetry -/

theorem powerRow_iff : PowerRow N l ↔ ∀ i, i < N → l.getD (2 * i + 1) 0 = 0 ∧ 0 ≤ l.getD (2 * i) 0 := by
  refine forall₂_congr fun i _ => ⟨?_, fun ⟨him, hre⟩ => ⟨_, hre, Complex.ext rfl him⟩⟩
  rintro ⟨r, hr, e⟩
  obtain ⟨hre, him⟩ := Complex.ext_iff.1 e
  exact ⟨him, hr.trans_eq hre.symm⟩

/-- The mirror of bin 0 is bin 0, that of every other bin is N - i. -/
theorem hermitianRow_iff (hN : 0 < N) : HermitianRow N l ↔
    (∀ i, 1 ≤ i → i < N → l.getD (2 * (N - i)) 0 = l.getD (2 * i) 0 ∧
      l.getD (2 * (N - i) + 1) 0 = -l.getD (2 * i + 1) 0) ∧ l.getD 1 0 = 0 := by
  constructor
  · intro h
    refine ⟨fun i h1 hi => ?_, ?_⟩
    · have hbin := h i hi
      rw [Nat.mod_eq_of_lt (by omega)] at hbin
      exact Complex.ext_iff.1 hbin
    · have hbin := h 0 hN
      rw [Nat.sub_zero, Nat.mod_self] at hbin
      exact Complex.conj_eq_iff_im.1 hbin.symm
  · rintro ⟨hmirror, hdc⟩ i hi
    rcases Nat.eq_zero_or_pos i with rfl | h1
    · rw [Nat.sub_zero, Nat.mod_self]
      exact (Complex.conj_eq_iff_im.2 hdc).symm
    · rw [Nat.mod_eq_of_lt (by omega)]
      exact Complex.ext_iff.2 (hmirror i h1 hi)

/-- The element N + 1 that the statement names is the imaginary part of the bin that mirrors itself. -/
theorem accSymmetric_iff {m : Nat} (hN : N = 2 ^ (m + 1)) (acc : PerSpectrum (List ℝ)) :
    accSymmetric N acc ↔
      PowerRow N acc.auto0 ∧ PowerRow N acc.auto1 ∧ HermitianRow N acc.cross := by
  have hpow : N = 2 * 2 ^ m := hN.trans (pow_succ' 2 m)
  have hhalf : 0 < 2 ^ m := Nat.two_pow_pos m
  rw [powerRow_iff, powerRow_iff, hermitianRow_iff (by omega)]
  constructor
  · rintro ⟨hauto, hmirror, hdc, _⟩
    exact ⟨hauto .auto0 (.inl rfl), hauto .auto1 (.inr rfl), hmirror, hdc⟩
  · rintro ⟨h0, h1, hmirror, hdc⟩
    refine ⟨?_, hmirror, hdc, ?_⟩
    · rintro k (rfl | rfl)
      · exact h0
      · exact h1
    · obtain ⟨_, hself⟩ := hmirror (2 ^ m) hhalf (by omega)
      have hmid : 2 * (N - 2 ^ m) + 1 = N + 1 := by omega
      have hmid' : 2 * 2 ^ m + 1 = N + 1 := by omega
      rw [hmid, hmid'] at hself
      exact self_eq_neg.1 hself

/-- FFT-HERM in this form (42_fft.md R132). -/
theorem hermitianRow_of_fftHerm {m : Nat} {fft : Nat → List ℝ → List ℝ} (h : FftHerm numReal fft)
    {x : List ℝ} (hx : x.length = 2 ^ (m + 1)) : HermitianRow (2 ^ (m + 1)) (fft (2 ^ (m + 1)) x) := by
  obtain ⟨hmirror, hdc, hmid⟩ := h m x hx
  rw [numReal_isZero] at hdc hmid
  refine (hermitianRow_iff (Nat.two_pow_pos _)).2 ⟨fun i h1 hi => ?_, hdc⟩
  obtain ⟨hre, him⟩ := hmirror i h1 hi
  refine ⟨hre, ?_⟩
  by_cases hself : i = 2 ^ m
  · have hpow : 2 ^ (m + 1) = 2 * 2 ^ m := pow_succ' 2 m
    have hsub : 2 * (2 ^ (m + 1) - i) + 1 = 2 ^ (m + 1) + 1 := by omega
    have hown : 2 * i + 1 = 2 ^ (m + 1) + 1 := by omega
    rw [hsub, hown]
    exact hmid.trans (neg_eq_zero.2 hmid).symm
  · exact him hself

/-! ## The bins of a call -/

theorem complexBin_eq {re im : ℝ} (hre : l[2 * i]? = some re) (him : l[2 * i + 1]? = some im) :
    complexBin l i = ⟨re, im⟩ :=
  Complex.ext (elem_eq_of_getElem? numReal hre) (elem_eq_of_getElem? numReal him)

section
variable (h : b.Called p rows d) (hi : i < b.fftLen)
include h hi

theorem Block.Called.complexBin_spec (hp : p.num = numReal) (c : Channel) :
    complexBin (d.spec.get c) i = complexBin (p.fft b.fftLen (d.xbuf.get c)) i := by
  rw [complexBin_eq (h.transformed c _ (by omega)) (h.transformed c _ (by omega)), hp]
  rfl

theorem Block.Called.complexBin_conj (hp : p.num = numReal) (c : Channel) :
    complexBin (d.conj.get c) i = conj (complexBin (d.spec.get c) i) := by
  obtain ⟨hre, him⟩ := h.conjugated c i hi
  rw [complexBin_eq hre him, hp]
  rfl

theorem Block.Called.complexBin_inst (hp : p.num = numReal) (k : Spectrum) :
    complexBin (d.inst.get k) i
      = complexBin (d.spec.get (cmulFirst k)) i * complexBin (d.conj.get (cmulSecond k)) i := by
  obtain ⟨hre, him⟩ :=
    cmulElem_bin numReal (d.spec.get (cmulFirst k)) (d.conj.get (cmulSecond k)) i
  rw [complexBin_eq (h.multiplied k _ (by omega)) (h.multiplied k _ (by omega)), hp, hre, him]
  rfl

theorem Block.Called.complexBin_acc (hp : p.num = numReal) (k : Spectrum) :
    complexBin (d.acc.get k) i = (b.alpha : ℝ) * complexBin (b.acc.get k) i
      + ((1 - b.alpha : ℝ) : ℂ) * complexBin (d.inst.get k) i := by
  rw [complexBin_eq (h.smoothed k _ (by omega)) (h.smoothed k _ (by omega)), hp]
  refine Complex.ext ?_ ?_
  · rw [Complex.add_re, Complex.re_ofReal_mul, Complex.re_ofReal_mul]
    rfl
  · rw [Complex.add_im, Complex.im_ofReal_mul, Complex.im_ofReal_mul]
    rfl

end

/-- A call whose spectra are Hermitian keeps the symmetry of the accumulator. -/
theorem Block.Called.accSymmetric {m : Nat} (h : b.Called p rows d) (hp : p.num = numReal)
    (hN : b.fftLen = 2 ^ (m + 1)) (h0 : 0 ≤ b.alpha) (h1 : b.alpha ≤ 1)
    (hfft : ∀ c, HermitianRow b.fftLen (p.fft b.fftLen (d.xbuf.get c)))
    (hacc : accSymmetric b.fftLen b.acc) : accSymmetric b.fftLen d.acc := by
  rw [accSymmetric_iff hN] at hacc ⊢
  obtain ⟨hauto0, hauto1, hcross⟩ := hacc
  have hspec : ∀ c, HermitianRow b.fftLen (d.spec.get c) := fun c i hi => by
    rw [h.complexBin_spec hi hp, h.complexBin_spec (Nat.mod_lt _ (by omega)) hp]
    exact hfft c i hi
  have hconj : ∀ c, HermitianRow b.fftLen (d.conj.get c) := fun c =>
    hermitianRow_of_conj (hspec c) fun i hi => h.complexBin_conj hi hp c
  have hpower : ∀ k, cmulFirst k = cmulSecond k → PowerRow b.fftLen (d.inst.get k) := fun k hk =>
    powerRow_of_mul_conj (P := d.spec.get (cmulFirst k)) fun i hi => by
      rw [h.complexBin_inst hi hp, ← hk, h.complexBin_conj hi hp]
  have hfiltered : ∀ k i, i < b.fftLen → complexBin (d.acc.get k) i
      = (b.alpha : ℝ) * complexBin (b.acc.get k) i
        + ((1 - b.alpha : ℝ) : ℂ) * complexBin (d.inst.get k) i :=
    fun k i hi => h.complexBin_acc hi hp k
  have hbeta : 0 ≤ 1 - b.alpha := sub_nonneg.2 h1
  exact ⟨powerRow_of_filtered h0 hbeta hauto0 (hpower .auto0 rfl) (hfiltered .auto0),
    powerRow_of_filtered h0 hbeta hauto1 (hpower .auto1 rfl) (hfiltered .auto1),
    hermitianRow_of_filtered hcross
      (hermitianRow_of_mul (hspec .ch0) (hconj .ch1) fun i hi => h.complexBin_inst hi hp .cross)
      (hfiltered .cross)⟩

/-! ## The last bin of an emission -/

/-- The last element of an auto row is element N - 1 of the accumulator, an imaginary part, over the
rate (45_decimate_emit.md R163). -/
theorem getD_extractAuto_nyquist {A old : List ℝ} {h : Nat} (hN : b.fftLen = 2 * h) (hh : 0 < h)
    (hA : PowerRow b.fftLen A) (hold : b.fftLen / 2 < old.length) :
    (storeElems (extractAuto numReal b A) old).getD (b.fftLen / 2) 0 = 0 := by
  have hodd : 2 * (h - 1) + 1 = b.fftLen - 1 := by omega
  have hzero : elem numReal A (b.fftLen - 1) = 0 := by
    rw [← hodd]
    exact (powerRow_iff.1 hA (h - 1) (by omega)).1
  rw [List.getD_eq_getElem?_getD, storeElems_written (extractAuto_nyquist numReal b A) hold, hzero]
  exact zero_div _

/-- Settles O58: the steps of a call act on bins as complex numbers, and the last element of an auto
row is an imaginary part. -/
theorem callsKeepTheAccumulatorSymmetric : Obligations.CallsKeepTheAccumulatorSymmetric := by
  intro winGen fft L m hL b b' _ hherm hconf hsized hN h0 h1 hacc hrun hok
  have hb := Block.built_of_sized hconf hsized
  obtain ⟨_, rows, _, rfl⟩ := runProcess_of_ok hrun hok
  have hcalled := hb.afterCall (p := realParams winGen fft L hL) rows
  have hfft : ∀ c, HermitianRow b.fftLen
      (fft b.fftLen ((b.afterCall (realParams winGen fft L hL) rows).xbuf.get c)) := fun c => by
    have hx := (hcalled.keeps.xbuf c).trans (hb.xbuf c)
    rw [hN] at hx ⊢
    exact hermitianRow_of_fftHerm hherm hx
  have hsymmetric := hcalled.accSymmetric rfl hN h0 h1 hfft hacc
  refine ⟨hsymmetric, fun hvalid => ?_⟩
  rcases afterCall_tick_cases (realParams winGen fft L hL) b rows with
    ⟨_, _, hnone, _⟩ | ⟨_, _, _, e, hkeeps, heacc, heout, hout⟩
  · rw [hnone] at hvalid
    cases hvalid
  · obtain ⟨hauto0, hauto1, _⟩ := (accSymmetric_iff hN _).1 hsymmetric
    have he := hkeeps.built hb
    have hhalf : e.fftLen = 2 * 2 ^ m := by rw [hkeeps.fftLen, hN, pow_succ']
    rw [← heacc, ← hkeeps.fftLen] at hauto0 hauto1
    rw [hout, ← hkeeps.fftLen]
    exact ⟨getD_extractAuto_nyquist hhalf (Nat.two_pow_pos m) hauto0
        (Nat.lt_of_lt_of_eq (Nat.lt_succ_self _) he.out_auto0.symm),
      getD_extractAuto_nyquist hhalf (Nat.two_pow_pos m) hauto1
        (Nat.lt_of_lt_of_eq (Nat.lt_succ_self _) he.out_auto1.symm)⟩

end Sys2Proof.Machine
end

section
/-!
SUPPORT. A call on silence (46_process.md R186): zeros pass every step of a call over any numerics
record that keeps them, and NUM_REAL and, under the invariant, NUM_B64 do.
-/

namespace Sys2Proof.Machine

open Sys2Proof.Claims

variable {F : Type} {num : Num F} {p : Params F} {b d e : Block F} {rows : PerChannel (List F)}
  {l P Q : List F} {n i m top : Nat}

/-! ## Rows of zeros -/

def Num.ZeroRow (num : Num F) (l : List F) : Prop := ∀ v ∈ l, num.isZero v = true

theorem Num.ZeroRow.elem (hzero : num.isZero num.zero = true) (h : num.ZeroRow l) (i : Nat) :
    num.isZero (elem num l i) = true := by
  rw [Machine.elem]
  rcases Nat.lt_or_ge i l.length with hi | hi
  · rw [List.getD_eq_getElem _ _ hi]
    exact h _ (List.getElem_mem hi)
  · rw [List.getD_eq_default _ _ hi]
    exact hzero

theorem zeroRow_of_getElem? (hlen : l.length = n)
    (h : ∀ i, i < n → ∃ v, l[i]? = some v ∧ num.isZero v = true) : num.ZeroRow l := by
  intro v hv
  obtain ⟨i, hi, rfl⟩ := List.getElem_of_mem hv
  obtain ⟨w, hw, hzero⟩ := h i (hlen ▸ hi)
  rw [List.getElem?_eq_getElem hi, Option.some_inj] at hw
  rwa [hw]

/-- A loop that writes only zeros. -/
theorem Num.ZeroRow.storeElems {v : Nat → Option F} (h : num.ZeroRow l)
    (hv : ∀ i x, v i = some x → num.isZero x = true) : num.ZeroRow (storeElems v l) := by
  refine zeroRow_of_getElem? rfl fun i hi => ?_
  rw [storeElems_length] at hi
  rw [storeElems_getElem?, List.getElem?_eq_getElem hi, Option.map_some]
  refine ⟨_, rfl, ?_⟩
  cases hvi : v i with
  | none => exact h _ (List.getElem_mem hi)
  | some x => exact hv i x hvi

/-! ## What a call needs to keep silence -/

/-- Zero factors and dividends, as the steps of a call on b meet them: the window coefficients, alpha
and 1 - alpha turn zeros to zeros, and so do the two divisors. -/
structure Block.KeepsSilence (p : Params F) (b : Block F) : Prop where
  product : ∀ {y z}, p.num.isZero y = true → p.num.isZero z = true →
    p.num.isZero (p.num.mul y z) = true
  windowed : ∀ {n z}, n < b.blockLen → p.num.isZero z = true →
    p.num.isZero (p.num.mul z (elem p.num b.win n)) = true
  by_alpha : ∀ {z}, p.num.isZero z = true → p.num.isZero (p.num.mul b.alpha z) = true
  by_beta : ∀ {z}, p.num.isZero z = true →
    p.num.isZero (p.num.mul (p.num.sub p.num.one b.alpha) z) = true
  over_end : ∀ {z}, p.num.isZero z = true → p.num.isZero (p.num.div z b.endDivisor) = true
  over_interior : ∀ {z}, p.num.isZero z = true →
    p.num.isZero (p.num.div z (b.interiorDivisor p.num)) = true

/-- The divisors are registers. -/
theorem Block.Keeps.keepsSilence (h : b.Keeps e) (hs : b.KeepsSilence p) : e.KeepsSilence p where
  product := hs.product
  windowed := by rw [h.blockLen, h.win]; exact hs.windowed
  by_alpha := by rw [h.alpha]; exact hs.by_alpha
  by_beta := by rw [h.alpha]; exact hs.by_beta
  over_end := by rw [Block.endDivisor, h.afs]; exact hs.over_end
  over_interior := by rw [Block.interiorDivisor, h.afs]; exact hs.over_interior

section
variable (hz : p.num.KeepsZeros top) (hs : b.KeepsSilence p)
include hz hs

theorem Block.KeepsSilence.cmulElem (hP : p.num.ZeroRow P) (hQ : p.num.ZeroRow Q) (i : Nat) :
    p.num.isZero (cmulElem p.num P Q i) = true := by
  have hproduct : ∀ i j, p.num.isZero (p.num.mul (elem p.num P i) (elem p.num Q j)) = true :=
    fun i j => hs.product (hP.elem hz.zero i) (hQ.elem hz.zero j)
  obtain ⟨k, rfl | rfl⟩ := i.even_or_odd'
  · rw [(cmulElem_bin p.num P Q k).1]
    exact hz.sub (hproduct _ _) (hproduct _ _)
  · rw [(cmulElem_bin p.num P Q k).2]
    exact hz.add (hproduct _ _) (hproduct _ _)

/-- Every bank of a call on zeros from a zero accumulator is zero, so the accumulator is. -/
theorem Block.Called.zeroRow_acc (h : b.Called p rows d) (hb : b.Built) (hN : b.fftLen = 2 ^ m)
    (hm : m ≤ top) (hfft : FftZero p.num top p.fft) (hrows : ∀ c, p.num.ZeroRow (rows.get c))
    (hacc : ∀ k, p.num.ZeroRow (b.acc.get k)) (k : Spectrum) : p.num.ZeroRow (d.acc.get k) := by
  have hxlen : ∀ c, (d.xbuf.get c).length = b.fftLen := fun c => (h.keeps.xbuf c).trans (hb.xbuf c)
  have hx : ∀ c, p.num.ZeroRow (d.xbuf.get c) := fun c => zeroRow_of_getElem? (hxlen c) fun n hn => by
    rcases Nat.lt_or_ge n b.blockLen with hB | hB
    · exact ⟨_, h.windowed c n hB hn, hs.windowed hB ((hrows c).elem hz.zero n)⟩
    · exact ⟨_, h.padded c n hB hn, hz.zero⟩
  have htransform : ∀ c, p.num.ZeroRow (p.fft b.fftLen (d.xbuf.get c)) := fun c => by
    rw [hN]
    exact hfft m _ hm ((hxlen c).trans hN) (hx c)
  have hspec : ∀ c, p.num.ZeroRow (d.spec.get c) := fun c =>
    zeroRow_of_getElem? ((h.keeps.spec c).trans (hb.spec c)) fun i hi =>
      ⟨_, h.transformed c i hi, (htransform c).elem hz.zero i⟩
  have hconj : ∀ c, p.num.ZeroRow (d.conj.get c) := fun c =>
    zeroRow_of_getElem? ((h.keeps.conj c).trans (hb.conj c)) fun i hi => by
      obtain ⟨j, rfl | rfl⟩ := i.even_or_odd'
      · exact ⟨_, (h.conjugated c j (by omega)).1, (hspec c).elem hz.zero _⟩
      · exact ⟨_, (h.conjugated c j (by omega)).2, hz.neg ((hspec c).elem hz.zero _)⟩
  have hinst : p.num.ZeroRow (d.inst.get k) :=
    zeroRow_of_getElem? ((h.keeps.inst k).trans (hb.inst k)) fun i hi =>
      ⟨_, h.multiplied k i hi, hs.cmulElem hz (hspec _) (hconj _) i⟩
  exact zeroRow_of_getElem? ((h.keeps.acc k).trans (hb.acc k)) fun i hi =>
    ⟨_, h.smoothed k i hi, hz.add (hs.by_alpha ((hacc k).elem hz.zero i))
      (hs.by_beta (hinst.elem hz.zero i))⟩

theorem Block.KeepsSilence.extractCross (hacc : p.num.ZeroRow b.acc.cross) (i : Nat) (x : F)
    (hx : extractCross p.num b i = some x) : p.num.isZero x = true := by
  rw [Machine.extractCross] at hx
  split_ifs at hx <;> cases hx
  · exact hs.over_interior (hacc.elem hz.zero _)
  · exact hs.over_end (hacc.elem hz.zero _)
  · exact hs.over_end (hacc.elem hz.zero _)

theorem Block.KeepsSilence.extractAuto (hA : p.num.ZeroRow l) (i : Nat) (x : F)
    (hx : extractAuto p.num b l i = some x) : p.num.isZero x = true := by
  rw [Machine.extractAuto] at hx
  split_ifs at hx <;> cases hx
  · exact hs.over_interior (hA.elem hz.zero _)
  · exact hs.over_end (hA.elem hz.zero _)
  · exact hs.over_end (hA.elem hz.zero _)

/-- An emission of a zero accumulator over zeros is zero. -/
theorem Block.KeepsSilence.zeroRow_extract (hacc : ∀ k, p.num.ZeroRow (b.acc.get k))
    (hout : ∀ k, p.num.ZeroRow (b.out.get k)) (k : Spectrum) :
    p.num.ZeroRow ((extract p b).out.get k) := by
  cases k with
  | cross => exact (hout .cross).storeElems (hs.extractCross hz (hacc .cross))
  | auto0 => exact (hout .auto0).storeElems (hs.extractAuto hz (hacc .auto0))
  | auto1 => exact (hout .auto1).storeElems (hs.extractAuto hz (hacc .auto1))

/-- PROCESS on zeros, accepted or not. -/
theorem Block.KeepsSilence.runProcess (hb : b.Built) (hN : b.fftLen = 2 ^ m)
    (hm : m ≤ top) (hfft : FftZero p.num top p.fft)
    (hinp : ∀ c n, n < b.blockLen →
      ∃ v, memRead (b.inp.get c) n = some v ∧ p.num.isZero v = true)
    (hacc : ∀ k, p.num.ZeroRow (b.acc.get k)) (hout : ∀ k, p.num.ZeroRow (b.out.get k))
    (h : runProcess p b = .ok d) :
    (∀ k, p.num.ZeroRow (d.acc.get k)) ∧ ∀ k, p.num.ZeroRow (d.out.get k) := by
  rcases runProcess_cases h with ⟨_, rfl⟩ | ⟨_, _, rfl⟩ | ⟨_, _, rows, hread, rfl⟩
  · exact ⟨hacc, hout⟩
  · exact ⟨hacc, hout⟩
  · have hrows : ∀ c, p.num.ZeroRow (rows.get c) := fun c => by
      obtain ⟨hlen, hrow⟩ := readRow_ok (hread c)
      refine zeroRow_of_getElem? hlen fun n hn => ?_
      rw [(hrow n hn).1, Nat.zero_add]
      exact hinp c n hn
    have haccumulated := (hb.afterCall rows).zeroRow_acc hz hs hb hN hm hfft hrows hacc
    refine ⟨haccumulated, fun k => ?_⟩
    rcases afterCall_tick_cases p b rows with ⟨_, _, _, e⟩ | ⟨_, _, _, x, hkeeps, hxacc, hxout, e⟩ <;>
      rw [e]
    · exact hout k
    · rw [← hxacc] at haccumulated
      rw [← hxout] at hout
      exact (hkeeps.keepsSilence hs).zeroRow_extract hz haccumulated hout k

end

/-- Over the reals any factor and any divisor will do, 0 included (log 27). -/
theorem keepsSilence_numReal {p : Params ℝ} (hp : p.num = numReal) (b : Block ℝ) :
    b.KeepsSilence p where
  product := by rw [hp]; simp +contextual
  windowed := by rw [hp]; simp +contextual
  by_alpha := by rw [hp]; simp +contextual
  by_beta := by rw [hp]; simp +contextual
  over_end := by rw [hp]; simp +contextual
  over_interior := by rw [hp]; simp +contextual

/-! ## The machine -/

theorem value_one : (f64Value f64One : ℝ) = 1 := by
  have h : f64Value f64One = 1 := by decide +kernel
  rw [h, Rat.cast_one]

theorem value_two : (f64Value f64Two : ℝ) = 2 := by
  have h : f64Value f64Two = 2 := by decide +kernel
  rw [h, Rat.cast_ofNat]

section
variable {x y z : B64}

theorem f64IsZero_mul_left (hx : f64IsZero x = true) (hy : f64IsFinite y = true) :
    f64IsZero (f64Mul x y) = true := by
  have h := correctlyRounded_mul (f64IsFinite_of_isZero hx) hy
  rw [value_real_of_isZero hx, zero_mul] at h
  exact isZero_of_correctlyRounded_zero h

theorem f64IsFinite_of_number (hnum : f64IsNaN x = false) (hinf : f64IsInf x = false) :
    f64IsFinite x = true := by
  rw [f64IsFinite, decide_eq_true_iff]
  intro he
  simp only [f64IsNaN, f64IsInf, he, decide_true, Bool.true_and, decide_eq_false_iff_not] at hnum hinf
  exact hnum hinf

/-- A zero of either sign divided by a number other than a zero, infinities included. -/
theorem f64IsZero_div_of_isZero (hz : f64IsZero z = true) (hnum : f64IsNaN y = false)
    (hy : f64IsZero y = false) : f64IsZero (f64Div z y) = true := by
  have hzf := f64IsFinite_of_isZero hz
  cases hinf : f64IsInf y with
  | true =>
    have e : f64Div z y = f64Zero (f64Sign z != f64Sign y) := by
      simp [f64Div, f64IsNaN_of_finite hzf, f64IsInf_of_finite hzf, hnum, hinf]
    rw [e]
    exact f64IsZero_zero _
  | false =>
    have h := correctlyRounded_div hzf (f64IsFinite_of_number hnum hinf) hy
    rw [value_real_of_isZero hz, zero_div] at h
    exact isZero_of_correctlyRounded_zero h

/-- Twice a positive rate is a number other than a zero: the rate itself is nearer than 0, and what
overflows is an infinity. -/
theorem f64Mul_two_of_pos (hx : f64IsFinite x = true) (hpos : 0 < (f64Value x : ℝ)) :
    f64IsNaN (f64Mul f64Two x) = false ∧ f64IsZero (f64Mul f64Two x) = false := by
  obtain ⟨hfinite, hinfinite⟩ := correctlyRounded_mul (a := f64Two) (by decide) hx
  rw [value_two] at hfinite
  cases hr : f64IsFinite (f64Mul f64Two x) with
  | true =>
    have hnear := ((hfinite hr).2 x hx).1
    have hself : |(f64Value x : ℝ) - 2 * f64Value x| = f64Value x := by
      rw [abs_sub_comm, abs_of_pos] <;> linarith
    rw [hself] at hnear
    exact ⟨f64IsNaN_of_finite hr, (plus_of_value_pos (by linarith [(abs_le.1 hnear).1])).1⟩
  | false =>
    refine ⟨f64IsNaN_of_inf (hinfinite hr).1, Bool.eq_false_of_not_eq_true fun hzero => ?_⟩
    rw [f64IsFinite_of_isZero hzero] at hr
    cases hr

theorem value_pos_of_rate (hx : f64IsFinite x = true) (hle : f64Le0 x = false) :
    0 < (f64Value x : ℝ) := by
  simp only [f64Le0, f64IsNaN_of_finite hx, Bool.not_false, Bool.true_and, Bool.or_eq_false_iff]
    at hle
  obtain ⟨hzero, hsign⟩ := hle
  rw [f64Value_signed, hsign]
  exact div_pos (by exact_mod_cast f64Mag_pos hzero) f64Scale_real_pos

end

section
variable {b : Block B64}

/-- The window CONFIG computed is finite (40_config.md R106). -/
theorem Block.EstimatorOk.window_finite (ok : b.EstimatorOk params) (hn : n < b.blockLen) :
    f64IsFinite (elem numB64 b.win n) = true := by
  have htwo := ok.two_le_blockLen
  have hcap : b.ablock.toInt ≤ 65536 := ok.block_le_cap
  obtain ⟨hlen, hfin, _⟩ := winNormalisedWithin_numB64 b.blockLen htwo
    (by unfold Block.blockLen; omega)
  have hwin : b.win = winDefault numB64 b.blockLen (nextPow2 b.blockLen) := by
    rw [ok.win_eq, ok.nfft_eq]
    exact firstElems_eq_self numB64 hlen
  rw [← hwin] at hlen hfin
  rw [elem, List.getD_eq_getElem _ _ (by omega)]
  exact hfin _ (List.getElem_mem _)

/-- The alpha CONFIG computed lies in [0, 1] unless it is a NaN (40_config.md R111 (j)). -/
theorem Block.EstimatorOk.beta_finite (ok : b.EstimatorOk params)
    (hfin : f64IsFinite b.alpha = true) : f64IsFinite (f64Sub f64One b.alpha) = true := by
  obtain ⟨hnan, hunit, _⟩ := binaryAlphaIsInTheUnitInterval.1 b.ablock.toInt b.ahop.toInt b.afs
    ok.hop_positive ok.hop_le_block BitVec.toInt_lt ok.rate_finite ok.rate_positive
  have halpha : alphaOf numB64 b.ablock.toInt b.ahop.toInt b.afs = b.alpha := ok.alpha_eq.symm
  rw [halpha] at hnan hunit
  have hcase : f64IsZero (f64Mul b.afs f64Eighth) = false ∨ b.ablock.toInt ≠ b.ahop.toInt := by
    by_contra hcase
    rw [not_or, Bool.not_eq_false, not_not] at hcase
    rw [f64IsNaN_of_finite hfin] at hnan
    cases hnan hcase.1 hcase.2
  obtain ⟨_, _, hlo, hhi⟩ := hunit hcase
  have hlo' : (0 : ℝ) ≤ f64Value b.alpha := by exact_mod_cast hlo
  have hhi' : (f64Value b.alpha : ℝ) ≤ 1 := by exact_mod_cast hhi
  refine isFinite_of_correctlyRounded (correctlyRounded_sub (by decide) hfin) ?_
  rw [value_one, abs_of_nonneg (by linarith)]
  linarith [one_lt_pow₀ (one_lt_two (α := ℝ)) (show 200 ≠ 0 by decide)]

/-- Finite factors and divisors that are no zeros keep zeros. -/
theorem Block.EstimatorOk.keepsSilence (ok : b.EstimatorOk params)
    (hfin : f64IsFinite b.alpha = true) : b.KeepsSilence params := by
  have hrate := value_pos_of_rate ok.rate_finite ok.rate_positive
  have htwice := f64Mul_two_of_pos ok.rate_finite hrate
  exact {
    product := fun hy hz => f64IsZero_mul (f64IsFinite_of_isZero hy) hz
    windowed := fun hn hz => f64IsZero_mul_left hz (ok.window_finite hn)
    by_alpha := fun hz => f64IsZero_mul hfin hz
    by_beta := fun hz => f64IsZero_mul (ok.beta_finite hfin) hz
    over_end := fun hz => f64IsZero_div_of_isZero hz (f64IsNaN_of_finite ok.rate_finite)
      (plus_of_value_pos hrate).1
    over_interior := fun hz => f64IsZero_div_of_isZero hz htwice.1 htwice.2 }

end

/-- Settles O59: both records keep zeros through every step of a call. -/
theorem silenceKeepsEverythingZero : Obligations.SilenceKeepsEverythingZero := by
  refine ⟨fun winGen fft L m hL b b' hfft hconf hsized hN hinp hacc hout hrun => ?_,
    fun s t hs hconf hfin hinp hacc hout hrun => ?_⟩
  · have hzeros : ∀ {bank : PerSpectrum (List ℝ)},
        (∀ k, ∀ v ∈ bank.get k, v = 0) ↔ ∀ k, numReal.ZeroRow (bank.get k) := by
      simp [Num.ZeroRow]
    rw [hzeros] at hacc hout ⊢
    rw [hzeros]
    exact (keepsSilence_numReal (p := realParams winGen fft L hL) rfl b).runProcess
      (keepsZeros_numReal m) (Block.built_of_sized hconf hsized) hN le_rfl hfft
      (fun c n hn => ⟨0, hinp c n hn, (numReal_isZero 0).2 rfl⟩) hacc hout hrun
  · have ok := hs.configured_ok hconf
    obtain ⟨b, hb, rfl⟩ := State.outcome_next hrun
    have hN : s.block.fftLen = 2 ^ Nat.clog 2 s.block.blockLen := ok.nfft_eq.trans (nextPow2_eq _)
    have hcap : s.block.ablock.toInt ≤ 65536 := ok.block_le_cap
    have hm : Nat.clog 2 s.block.blockLen ≤ 30 :=
      Nat.clog_le_of_le_pow (by unfold Block.blockLen; omega)
    exact (ok.keepsSilence hfin).runProcess keepsZeros_numB64
      (Block.built_of_sized hconf hs.lengths) hN hm keepsZeros_numB64.fftZero hinp hacc hout hb

end Sys2Proof.Machine
end

section
/-!
SUPPORT. PROCESS and its thirteen step commands (46_process.md R180 to R183): the banks a call
leaves on the machine, and what the step commands make of the same input, accepted or not.
-/

namespace Sys2Proof.Machine

open Sys2Proof.Claims

variable {s t u : State} {b d : Block B64} {rows : PerChannel (List B64)} {c : Channel}
  {k : Spectrum} {i : Instr} {rest : List Instr}

/-! ## The banks a call leaves -/

theorem exec_process_of_callReady (h : s.block.CallReady) (hr : s.block.ReadsRows rows) :
    exec .process s = .next (s.withBlock (s.block.afterCall params rows)) :=
  congrArg s.outcome (h.runProcess_eq hr)

section
variable (h : b.Called params rows d) (hb : b.Built)
include h hb

theorem Block.Called.spec_eq_fftDefault (c : Channel) :
    d.spec.get c = fftDefault numB64 b.fftLen (d.xbuf.get c) := by
  have hlen := fftDefault_length numB64 b.fftLen (d.xbuf.get c)
  refine ext_of_length ((h.keeps.spec c).trans (hb.spec c)) hlen fun i hi => ?_
  rw [h.transformed c i hi, elem_of_lt numB64 (by omega)]
  rfl

theorem Block.Called.isConjugate (c : Channel) :
    isConjugate b.fftLen (d.spec.get c) (d.conj.get c) := by
  have hspec := (h.keeps.spec c).trans (hb.spec c)
  refine ⟨(h.keeps.conj c).trans (hb.conj c), fun i hi => ?_⟩
  obtain ⟨hre, him⟩ := h.conjugated c i hi
  exact ⟨_, _, elem_of_lt _ (by omega), elem_of_lt _ (by omega), hre, him⟩

theorem Block.Called.isProduct (k : Spectrum) :
    isProduct b.fftLen (d.spec.get (cmulFirst k)) (d.conj.get (cmulSecond k)) (d.inst.get k) := by
  have hP := (h.keeps.spec (cmulFirst k)).trans (hb.spec _)
  have hQ := (h.keeps.conj (cmulSecond k)).trans (hb.conj _)
  refine ⟨(h.keeps.inst k).trans (hb.inst k), fun i hi => ?_⟩
  obtain ⟨hre, him⟩ :=
    cmulElem_bin params.num (d.spec.get (cmulFirst k)) (d.conj.get (cmulSecond k)) i
  exact ⟨_, _, _, _, elem_of_lt _ (by omega), elem_of_lt _ (by omega), elem_of_lt _ (by omega),
    elem_of_lt _ (by omega), (h.multiplied k _ (by omega)).trans (congrArg some hre),
    (h.multiplied k _ (by omega)).trans (congrArg some him)⟩

theorem Block.Called.isSmoothed (k : Spectrum) :
    isSmoothed b.fftLen b.alpha (b.acc.get k) (d.inst.get k) (d.acc.get k) := by
  have hacc := hb.acc k
  have hinst := (h.keeps.inst k).trans (hb.inst k)
  exact ⟨(h.keeps.acc k).trans hacc, fun i hi =>
    ⟨_, _, elem_of_lt _ (by omega), elem_of_lt _ (by omega), h.smoothed k i hi⟩⟩

end

/-- What is neither kept by the units nor the host's is a bank, the count or a flag. -/
theorem Block.Keeps.eq_with {F : Type} {b d : Block F} (h : b.Keeps d)
    (hhost : d.hostPart = b.hostPart) :
    d = { b with
      xbuf := d.xbuf, spec := d.spec, conj := d.conj, inst := d.inst, acc := d.acc
      out := d.out, cnt := d.cnt, outValid := d.outValid, err := d.err } := by
  simp only [Block.hostPart, Prod.mk.injEq] at hhost
  obtain ⟨hblocksize, hhopsize, hsamplerate, hnch, hinlen, hinp⟩ := hhost
  rw [← h.configured, ← h.ablock, ← h.ahop, ← h.afs, ← h.nfft, ← h.alpha, ← h.win, ← hblocksize,
    ← hhopsize, ← hsamplerate, ← hnch, ← hinlen, ← hinp]

/-- Settles O35: the call reads its rows, and each step's bank is made of the one before it. -/
theorem processRunsTheWholeCall : Obligations.ProcessRunsTheWholeCall := by
  intro s hready hcall _
  have ⟨hconf, hsized, _, _⟩ := hready
  have hb := Block.built_of_sized hconf hsized
  obtain ⟨rows, hrows⟩ := hcall.exists_readsRows
  have hcalled := hb.afterCall (p := params) rows
  refine ⟨_, exec_process_of_callReady hcall hrows, fun c => ?_, hcalled.spec_eq_fftDefault hb,
    hcalled.isConjugate hb, hcalled.isProduct hb .cross, hcalled.isProduct hb .auto0,
    hcalled.isProduct hb .auto1, hcalled.isSmoothed hb, fun hlt => ?_, fun hnine => ?_, rfl,
    hcalled.keeps.eq_with (afterCall_hostPart params s.block rows)⟩
  · rw [afterCall_xbuf_get]
    exact isWindowedRow_windowRow hready (hrows c)
  · rcases afterCall_tick_cases params s.block rows with ⟨_, hcount⟩ | ⟨hge, _⟩
    · exact hcount
    · omega
  · rcases afterCall_tick_cases params s.block rows with
      ⟨hlt, _⟩ | ⟨_, hcnt, hvalid, e, hkeeps, hacc, hout, hext⟩
    · omega
    · have hemission := isEmission_extract (hkeeps.ready hready)
      rw [← hext, hkeeps.fftLen, hkeeps.afs, hacc, hout] at hemission
      exact ⟨hcnt, hvalid, hemission⟩

/-! ## Commands run one after another -/

theorem execAll_of_next (h : exec i s = .next t) : execAll (i :: rest) s = execAll rest t := by
  rw [execAll, h]

theorem execAll_of_fault {f : Fault} (h : exec i s = .fault f) :
    execAll (i :: rest) s = .fault f := by
  rw [execAll, h]

theorem execAll_cons_next (h : execAll (i :: rest) s = .next u) :
    ∃ t, exec i s = .next t ∧ execAll rest t = .next u := by
  rw [execAll] at h
  cases he : exec i s with
  | next t =>
    rw [he] at h
    exact ⟨t, rfl, h⟩
  | fault f => rw [he] at h; cases h
  | refused r => rw [he] at h; cases h

/-! ## The eleven steps without a check -/

theorem exec_fft_of_configured (h : s.block.configured = true) (c : Channel) :
    exec (.fft (chanArg c)) s = .next (s.withBlock (fftEffect params c s.block).complete) := by
  rw [exec, execFft, runFft_eq, chanArg, channelOf_number, Option.elim_some, Block.command, if_pos h]

theorem exec_smooth_of_configured (h : s.block.configured = true) (k : Spectrum) :
    exec (.smooth (specArg k)) s = .next (s.withBlock (smoothEffect params k s.block).complete) := by
  rw [exec, execSmooth, runSmooth_of_configured h]

/-- The command runs this unit on a configured block, whatever code the command before it left. -/
def Instr.RunsUnit (i : Instr) (f : Block B64 → Block B64) : Prop :=
  ∀ (s : State) (b : Block B64) (e : Completion), b.configured = true →
    exec i (s.withBlock (b.raise e)) = .next (s.withBlock (f b).complete) ∧
      (f b).configured = true

theorem runsUnit_fft (c : Channel) : Instr.RunsUnit (.fft (chanArg c)) (fftEffect params c) :=
  fun s b e h => ⟨exec_fft_of_configured (s := s.withBlock (b.raise e)) h c, h⟩

theorem runsUnit_conj (c : Channel) : Instr.RunsUnit (.conj (chanArg c)) (conjEffect params c) :=
  fun s b e h => ⟨exec_conj_of_configured (s := s.withBlock (b.raise e)) h c, h⟩

theorem runsUnit_cmul (k : Spectrum) : Instr.RunsUnit (.cmul (specArg k)) (cmulEffect params k) :=
  fun s b e h => ⟨exec_cmul_of_configured (s := s.withBlock (b.raise e)) h k, h⟩

theorem runsUnit_smooth (k : Spectrum) :
    Instr.RunsUnit (.smooth (specArg k)) (smoothEffect params k) :=
  fun s b e h => ⟨exec_smooth_of_configured (s := s.withBlock (b.raise e)) h k, h⟩

theorem tickEffect_raise_complete (b : Block B64) (e : Completion) :
    (tickEffect params (b.raise e)).complete = (tickEffect params b).complete := by
  rcases tickEffect_cases params b with ⟨h, hb⟩ | ⟨h, hb⟩ <;>
    rcases tickEffect_cases params (b.raise e) with ⟨h', hb'⟩ | ⟨h', hb'⟩ <;>
    rw [Block.raise_cnt] at h'
  · rw [hb, hb']; rfl
  · omega
  · omega
  · rw [hb, hb']; rfl

theorem runsUnit_tick : Instr.RunsUnit .tick (tickEffect params) := by
  intro s b e h
  refine ⟨?_, (tickEffect_configured params b).trans h⟩
  rw [exec_tick_of_configured (s := s.withBlock (b.raise e)) h, State.withBlock_block,
    tickEffect_raise_complete]
  rfl

theorem execAll_units {cmds : List Instr} {fs : List (Block B64 → Block B64)}
    (h : List.Forall₂ Instr.RunsUnit cmds fs) (hb : b.configured = true) :
    execAll cmds (s.withBlock b.complete)
      = .next (s.withBlock (fs.foldl (fun d f => f d) b).complete) := by
  induction h generalizing b with
  | nil => rfl
  | cons hi _ ih =>
    obtain ⟨hexec, hconf⟩ := hi s b .ok hb
    exact (execAll_of_next hexec).trans (ih hconf)

/-- Steps 2 to 6 of a call as commands (46_process.md R182). -/
def uncheckedCommands : List Instr := stepCommands.drop 2

/-- They do what the same steps of a call do, whatever code WIN 1 left. -/
theorem execAll_uncheckedCommands (hb : b.configured = true) (e : Completion) :
    execAll uncheckedCommands (s.withBlock (b.raise e))
      = .next (s.withBlock (tickEffect params (spectralSteps params b)).complete) := by
  obtain ⟨hexec, hconf⟩ := runsUnit_fft .ch0 s b e hb
  have hrest : List.Forall₂ Instr.RunsUnit (uncheckedCommands.drop 1)
      [fftEffect params .ch1, conjEffect params .ch0, conjEffect params .ch1,
        cmulEffect params .cross, cmulEffect params .auto0, cmulEffect params .auto1,
        smoothEffect params .cross, smoothEffect params .auto0, smoothEffect params .auto1,
        tickEffect params] :=
    .cons (runsUnit_fft .ch1) <| .cons (runsUnit_conj .ch0) <| .cons (runsUnit_conj .ch1) <|
      .cons (runsUnit_cmul .cross) <| .cons (runsUnit_cmul .auto0) <| .cons (runsUnit_cmul .auto1) <|
      .cons (runsUnit_smooth .cross) <| .cons (runsUnit_smooth .auto0) <|
      .cons (runsUnit_smooth .auto1) <| .cons runsUnit_tick .nil
  exact (execAll_of_next hexec).trans (execAll_units hrest hconf)

/-! ## The two checked steps and the sequence -/

/-- What a WIN that ends leaves alone: everything but its own XBUF and the code, and that XBUF too
when its check fails (41_window.md R121). -/
structure Block.WinLeaves (b d : Block B64) : Prop where
  configured : d.configured = b.configured
  cnt : d.cnt = b.cnt
  nch : d.nch = b.nch
  inlen : d.inlen = b.inlen
  ablock : d.ablock = b.ablock
  rejected : ∀ c, b.winInputBad c = true → d.xbuf.get c = b.xbuf.get c

theorem Block.WinLeaves.winInputBad (h : b.WinLeaves d) (c : Channel) :
    d.winInputBad c = b.winInputBad c := by
  rw [Bool.eq_iff_iff, Block.winInputBad_eq_true_iff, Block.winInputBad_eq_true_iff, h.nch, h.inlen,
    h.ablock]

theorem Block.WinLeaves.trans {d' : Block B64} (h : b.WinLeaves d) (h' : d.WinLeaves d') :
    b.WinLeaves d' where
  configured := h'.configured.trans h.configured
  cnt := h'.cnt.trans h.cnt
  nch := h'.nch.trans h.nch
  inlen := h'.inlen.trans h.inlen
  ablock := h'.ablock.trans h.ablock
  rejected c hc := (h'.rejected c ((h.winInputBad c).trans hc)).trans (h.rejected c hc)

theorem exec_win_next (hc : s.block.configured = true)
    (h : exec (.win (chanArg c)) s = .next t) :
    ∃ d e, t = s.withBlock (d.raise e) ∧ s.block.WinLeaves d := by
  obtain ⟨b, hb, rfl⟩ := State.outcome_next h
  rw [runWin_eq, chanArg, channelOf_number, Option.elim_some] at hb
  rcases Block.checkedCommand_cases (Block.winInputBad c) (winEffect params c) s.block with
    ⟨hno, _⟩ | ⟨_, _, e⟩ | ⟨_, hgood, e⟩
  · rw [hc] at hno
    cases hno
  · rw [e] at hb
    cases hb
    exact ⟨_, _, rfl, rfl, rfl, rfl, rfl, rfl, fun _ _ => rfl⟩
  · rw [e] at hb
    rcases winEffect_cases params c s.block with ⟨row, _, hwin⟩ | ⟨j, _, hwin⟩ <;> rw [hwin] at hb <;>
      cases hb
    refine ⟨_, .ok, rfl, rfl, rfl, rfl, rfl, rfl, fun c' hbad => PerChannel.get_set_other _ _ ?_⟩
    rintro rfl
    rw [hgood] at hbad
    cases hbad

section
variable (hc : s.block.configured = true) (hnch : s.block.nch = 2#32)
include hc hnch

theorem exec_win_of_readRow_ok {row : List B64}
    (hlong : s.block.ablock.toInt ≤ ((s.block.inlen.get c).toNat : Int))
    (h : readRow (s.block.inp.get c) s.block.blockLen 0 = .ok row) :
    exec (.win (chanArg c)) s = .next (s.withBlock (s.block.windowRow numB64 c row).complete) := by
  rw [exec_win_of_accepted hc hnch hlong, winEffect, h]
  rfl

theorem exec_win_of_readRow_error {j : Nat}
    (hlong : s.block.ablock.toInt ≤ ((s.block.inlen.get c).toNat : Int))
    (h : readRow (s.block.inp.get c) s.block.blockLen 0 = .error j) :
    exec (.win (chanArg c)) s = .fault (.unwrittenInput c j) := by
  rw [exec_win_of_accepted hc hnch hlong, winEffect, h]
  rfl

/-- On accepted input the sequence and PROCESS run the same steps, or stop at the same sample. -/
theorem execAll_stepCommands_of_accepted
    (hlong0 : s.block.ablock.toInt ≤ (s.block.inlen.ch0.toNat : Int))
    (hlong1 : s.block.ablock.toInt ≤ (s.block.inlen.ch1.toNat : Int)) :
    execAll stepCommands s = exec .process s := by
  rw [exec_process_of_accepted hc hnch hlong0 hlong1]
  cases hr0 : readRow (s.block.inp.get .ch0) s.block.blockLen 0 with
  | error j =>
    rw [processEffect, winEffect, hr0]
    exact execAll_of_fault (exec_win_of_readRow_error (c := .ch0) hc hnch hlong0 hr0)
  | ok row0 =>
    refine (execAll_of_next (exec_win_of_readRow_ok (c := .ch0) hc hnch hlong0 hr0)).trans ?_
    cases hr1 : readRow (s.block.inp.get .ch1) s.block.blockLen 0 with
    | error j =>
      have hsecond : processEffect params s.block = .error (.unwrittenInput .ch1 j) := by
        simp only [processEffect, winEffect, hr0, windowRow_inp, windowRow_blockLen, hr1]
      rw [hsecond]
      exact execAll_of_fault (exec_win_of_readRow_error (c := .ch1)
        (s := s.withBlock (s.block.windowRow numB64 .ch0 row0).complete) hc hnch hlong1 hr1)
    | ok row1 =>
      have hrows : s.block.ReadsRows ⟨row0, row1⟩ := forall_channel.2 ⟨hr0, hr1⟩
      rw [processEffect_of_readsRows params hrows]
      exact (execAll_of_next (exec_win_of_readRow_ok (c := .ch1)
        (s := s.withBlock (s.block.windowRow numB64 .ch0 row0).complete) hc hnch hlong1 hr1)).trans
          (execAll_uncheckedCommands (b := s.block.windowRows numB64 ⟨row0, row1⟩) hc .ok)

end

/-- TICK always moves the counter. -/
theorem tickEffect_cnt_ne {F : Type} (p : Params F) (b : Block F) : (tickEffect p b).cnt ≠ b.cnt := by
  intro h
  have hcnt := congrArg BitVec.toNat h
  rcases tickEffect_cases p b with ⟨hlt, e⟩ | ⟨hge, e⟩ <;> rw [e, Block.setCount_cnt] at hcnt
  · rw [nextCount_toNat (by omega)] at hcnt
    omega
  · rw [BitVec.toNat_ofNat] at hcnt
    omega

/-- Settles O37: the steps after WIN run whatever code it left, and never raise one. -/
theorem processEqualsItsThirteenSteps : Obligations.ProcessEqualsItsThirteenSteps := by
  refine ⟨fun s => execAll_stepCommands_of_accepted, fun s u hc hreason => ⟨?_, fun hrun => ?_⟩⟩
  · have hbad := Block.processInputBad_eq_true_iff.2 hreason
    rw [exec, execProcess, runProcess, Block.checkedCommand, if_pos hc, if_pos hbad]
    rfl
  · obtain ⟨t0, hwin0, hrun⟩ := execAll_cons_next hrun
    obtain ⟨d0, e0, rfl, h0⟩ := exec_win_next (c := .ch0) hc hwin0
    have hc0 : d0.configured = true := h0.configured.trans hc
    obtain ⟨t1, hwin1, hrun⟩ := execAll_cons_next hrun
    obtain ⟨d1, e1, rfl, h1⟩ := exec_win_next (c := .ch1) hc0 hwin1
    have hleaves : s.block.WinLeaves d1 :=
      h0.trans ⟨h1.configured, h1.cnt, h1.nch, h1.inlen, h1.ablock, h1.rejected⟩
    have hend := execAll_uncheckedCommands (s := s) (hleaves.configured.trans hc) e1
    cases hend.symm.trans hrun
    refine ⟨rfl, ?_, fun c hreason => ?_⟩
    · have hne := tickEffect_cnt_ne params (spectralSteps params d1)
      rwa [spectralSteps_cnt, hleaves.cnt] at hne
    · rw [State.withBlock_block, Block.complete_xbuf, tickEffect_xbuf, spectralSteps_xbuf]
      exact hleaves.rejected c (Block.winInputBad_eq_true_iff.2 hreason)

/-- Settles O36: the check comes first, and a call that ends after it has read both rows. -/
theorem processDoesNothingOrEverything : Obligations.ProcessDoesNothingOrEverything := by
  intro s t hc h
  obtain ⟨b, hb, rfl⟩ := State.outcome_next h
  rcases runProcess_cases hb with ⟨hno, _⟩ | ⟨_, hbad, rfl⟩ | ⟨_, hgood, rows, hrows, rfl⟩
  · rw [hc] at hno
    cases hno
  · exact .inl ⟨rfl, Block.processInputBad_eq_true_iff.1 hbad⟩
  · have hready := Block.callReady_of_accepted hc hgood hrows.rowWritten
    refine .inr ⟨rfl, hready, ?_, ?_⟩
    · exact (execAll_stepCommands_of_accepted hc hready.channels hready.row0_long
        hready.row1_long).trans h
    · rcases afterCall_tick_cases params s.block rows with ⟨_, hcnt, _⟩ | ⟨_, hcnt, _⟩
      · exact .inl hcnt
      · exact .inr hcnt

end Sys2Proof.Machine
end

section
/-!
SUPPORT. Runs of calls (46_process.md R184, R188, R192): the same block at every call, a new block
before every call, and any commands on written input.
-/

namespace Sys2Proof.Machine

open Sys2Proof.Claims

/-! ## The same block at every call -/

section
variable {F : Type} {p : Params F} {b b' d d' : Block F} {rows : PerChannel (List F)}

theorem PerSpectrum.ext_get {α : Type} {x y : PerSpectrum α} (h : ∀ k, x.get k = y.get k) : x = y := by
  cases x
  cases y
  rw [PerSpectrum.mk.injEq]
  exact ⟨h .cross, h .auto0, h .auto1⟩

/-- The instantaneous spectrum depends on the input and the configuration alone: the calls of two
blocks that agree on these form the same (46_process.md R188). -/
theorem Block.Called.inst_eq (h : b.Called p rows d) (h' : b'.Called p rows d') (hk : b.Keeps b')
    (hb : b.Built) : d'.inst = d.inst := by
  have hkeeps := hk.trans h'.keeps
  have hx : ∀ c, d'.xbuf.get c = d.xbuf.get c := fun c =>
    ext_of_length ((hkeeps.xbuf c).trans (hb.xbuf c)) ((h.keeps.xbuf c).trans (hb.xbuf c))
      fun n hn => by
        rcases Nat.lt_or_ge n b.blockLen with hB | hB
        · rw [h'.windowed c n (by rwa [hk.blockLen]) (by rwa [hk.fftLen]), h.windowed c n hB hn, hk.win]
        · rw [h'.padded c n (by rwa [hk.blockLen]) (by rwa [hk.fftLen]), h.padded c n hB hn]
  have hspec : ∀ c, d'.spec.get c = d.spec.get c := fun c =>
    ext_of_length ((hkeeps.spec c).trans (hb.spec c)) ((h.keeps.spec c).trans (hb.spec c))
      fun i hi => by
        rw [h'.transformed c i (by rwa [hk.fftLen]), h.transformed c i hi, hk.fftLen, hx]
  have hconj : ∀ c, d'.conj.get c = d.conj.get c := fun c =>
    ext_of_length ((hkeeps.conj c).trans (hb.conj c)) ((h.keeps.conj c).trans (hb.conj c))
      fun i hi => by
        obtain ⟨j, rfl | rfl⟩ := i.even_or_odd'
        · rw [(h'.conjugated c j (by rw [hk.fftLen]; omega)).1, (h.conjugated c j (by omega)).1, hspec]
        · rw [(h'.conjugated c j (by rw [hk.fftLen]; omega)).2, (h.conjugated c j (by omega)).2, hspec]
  exact PerSpectrum.ext_get fun k =>
    ext_of_length ((hkeeps.inst k).trans (hb.inst k)) ((h.keeps.inst k).trans (hb.inst k))
      fun i hi => by
        rw [h'.multiplied k i (by rwa [hk.fftLen]), h.multiplied k i hi, hspec, hconj]

theorem Block.Keeps.readsRows (h : b.Keeps d) (hr : b.ReadsRows rows) : d.ReadsRows rows := by
  intro c
  rw [h.inp, h.blockLen]
  exact hr c

theorem Block.CallReady.of_keeps (h : b.CallReady) (hk : b.Keeps d)
    (hhost : d.hostPart = b.hostPart) : d.CallReady := by
  simp only [Block.hostPart, Prod.mk.injEq] at hhost
  obtain ⟨_, _, _, hnch, hinlen, hinp⟩ := hhost
  have hwritten : ∀ c, b.rowWritten c → d.rowWritten c := fun c hw n hn => by
    rw [hinp]
    exact hw n (hk.blockLen ▸ hn)
  refine ⟨hk.configured.trans h.configured, hnch.trans h.channels, ?_, ?_, hwritten _ h.row0_written,
    hwritten _ h.row1_written⟩ <;> rw [hk.ablock, hinlen]
  · exact h.row0_long
  · exact h.row1_long

theorem iterate_afterCall_keeps (p : Params F) (rows : PerChannel (List F)) (b : Block F) (n : Nat) :
    b.Keeps ((Block.afterCall p rows)^[n] b) ∧
      ((Block.afterCall p rows)^[n] b).hostPart = b.hostPart := by
  induction n with
  | zero => exact ⟨Block.Keeps.refl b, rfl⟩
  | succ n ih =>
    obtain ⟨hkeeps, hhost⟩ := ih
    rw [Function.iterate_succ_apply']
    exact ⟨hkeeps.trans (afterCall_keeps p rows _), (afterCall_hostPart p _ rows).trans hhost⟩

/-- Calls on one input read the same rows every time. -/
theorem calls_eq (h : b.CallReady) (hr : b.ReadsRows rows) (n : Nat) :
    calls p n b = .ok ((Block.afterCall p rows)^[n] b) := by
  induction n with
  | zero => rfl
  | succ n ih =>
    obtain ⟨hkeeps, hhost⟩ := iterate_afterCall_keeps p rows b n
    simp only [calls, ih]
    rw [(h.of_keeps hkeeps hhost).runProcess_eq (hkeeps.readsRows hr), Function.iterate_succ_apply']

end

section
variable {p : Params ℝ} {b d : Block ℝ} {rows : PerChannel (List ℝ)} {k : Spectrum} {i : Nat}

/-- A call filters each element of the accumulator (44_smooth.md R150). -/
theorem Block.Called.realElem_acc (h : b.Called p rows d) (hp : p.num = numReal)
    (hi : i < 2 * b.fftLen) :
    realElem d.acc k i = b.alpha * realElem b.acc k i + (1 - b.alpha) * realElem d.inst k i := by
  rw [realElem, List.getD_eq_getElem?_getD, h.smoothed k i hi, hp]
  rfl

/-- The n-th call leaves the n-th partial sum of the geometric series (44_smooth.md R152). -/
theorem realElem_iterate_afterCall (hp : p.num = numReal) (hb : b.Built)
    (hzero : realElem b.acc k i = 0) (hi : i < 2 * b.fftLen) (n : Nat) :
    realElem ((Block.afterCall p rows)^[n] b).acc k i
      = (1 - b.alpha ^ n) * realElem (b.afterCall p rows).inst k i := by
  induction n with
  | zero => rw [Function.iterate_zero_apply, hzero, pow_zero, sub_self, zero_mul]
  | succ n ih =>
    obtain ⟨hkeeps, _⟩ := iterate_afterCall_keeps p rows b n
    have hcalled := (hkeeps.built hb).afterCall (p := p) rows
    rw [Function.iterate_succ_apply', hcalled.realElem_acc hp (by rwa [hkeeps.fftLen]), hkeeps.alpha,
      ih, (hb.afterCall rows).inst_eq hcalled hkeeps hb]
    ring

end

/-- Settles O57: every call forms the spectrum of the first, and filters it into the accumulator. -/
theorem repeatedBlockConverges : Obligations.RepeatedBlockConverges := by
  intro winGen fft L hL b hcall hsized hacc
  obtain ⟨rows, hrows⟩ := hcall.exists_readsRows
  have hb := Block.built_of_sized hcall.configured hsized
  refine ⟨_, hcall.runProcess_eq hrows, fun n =>
    ⟨_, _, calls_eq hcall hrows n, calls_eq hcall hrows (n + 1), ?_, fun k i hi => ?_⟩⟩
  · obtain ⟨hkeeps, _⟩ := iterate_afterCall_keeps (realParams winGen fft L hL) rows b n
    rw [Function.iterate_succ_apply']
    exact (hb.afterCall rows).inst_eq ((hkeeps.built hb).afterCall rows) hkeeps hb
  · have hzero : realElem b.acc k i = 0 := (numReal_isZero _).1 <|
      Num.ZeroRow.elem (num := numReal) (by simp) (fun v hv => (numReal_isZero v).2 (hacc k v hv)) i
    have hform := realElem_iterate_afterCall (p := realParams winGen fft L hL) (rows := rows) rfl hb
      hzero hi
    rw [hform n, hform (n + 1)]
    refine ⟨rfl, by ring, fun h0 h1 => ?_⟩
    convert movesToward_filtered (x := realElem (b.afterCall (realParams winGen fft L hL) rows).inst k i)
      (y := (1 - b.alpha ^ n) * realElem (b.afterCall (realParams winGen fft L hL) rows).inst k i)
      h0 h1 using 1
    ring

/-! ## A new block before every call -/

section
variable {s t : State} {inp : PerChannel (Memory B64)} {inlen : PerChannel W32} {m : Nat}

theorem counted_afterCall {F : Type} {p : Params F} {b : Block F} (rows : PerChannel (List F))
    (hconf : b.configured = true) (hcnt : b.cnt.toNat = m % 10) :
    (b.afterCall p rows).Counted (m + 1) := by
  refine counted_tickEffect p ?_ ?_
  · rw [spectralSteps_configured, (windowRows_keeps p.num rows b).configured, hconf]
  · rw [spectralSteps_cnt, windowRows_cnt, hcnt]

/-- Whether input is accepted and written is a matter of the configuration. -/
theorem callReady_fed (h : (fed t inp inlen).block.CallReady) (hc : s.block.configured = true)
    (ha : s.block.ablock = t.block.ablock) : (fed s inp inlen).block.CallReady := by
  have hlen : (fed s inp inlen).block.blockLen = (fed t inp inlen).block.blockLen :=
    congrArg (fun a : W32 => a.toInt.toNat) ha
  have ha' : (fed s inp inlen).block.ablock = (fed t inp inlen).block.ablock := ha
  exact ⟨hc, rfl, ha' ▸ h.row0_long, ha' ▸ h.row1_long, fun n hn => h.row0_written n (hlen ▸ hn),
    fun n hn => h.row1_written n (hlen ▸ hn)⟩

/-- The state a call ends in, the state itself where it ends in none. -/
def State.afterProcess (s : State) : State :=
  match exec .process s with
  | .next t => t
  | .fault _ => s
  | .refused _ => s

/-- The run of one call for each input, from state t. -/
def fedRun (t : State) (inp : Nat → PerChannel (Memory B64)) (inlen : Nat → PerChannel W32) :
    Nat → State
  | 0 => t
  | m + 1 => (fed (fedRun t inp inlen m) (inp m) (inlen m)).afterProcess

/-- A ready call completes and counts. -/
theorem exec_process_counted (h : s.block.CallReady) (hm : s.block.Counted m) :
    exec .process s = .next s.afterProcess ∧ s.afterProcess.block.Counted (m + 1) ∧
      s.afterProcess.block.ablock = s.block.ablock := by
  obtain ⟨rows, hrows⟩ := h.exists_readsRows
  have hexec := exec_process_of_callReady h hrows
  rw [State.afterProcess, hexec]
  exact ⟨rfl, counted_afterCall rows hm.configured hm.count, (afterCall_keeps params rows _).ablock⟩

theorem fedRun_counted {inp : Nat → PerChannel (Memory B64)} {inlen : Nat → PerChannel W32}
    (ht : t.block.Counted 0) (h : ∀ m, (fed t (inp m) (inlen m)).block.CallReady) (m : Nat) :
    (fedRun t inp inlen m).block.Counted m ∧
      (fedRun t inp inlen m).block.ablock = t.block.ablock := by
  induction m with
  | zero => exact ⟨ht, rfl⟩
  | succ m ih =>
    obtain ⟨hm, ha⟩ := ih
    obtain ⟨_, hcount, hablock⟩ := exec_process_counted (callReady_fed (h m) hm.configured ha)
      (m := m) ⟨hm.configured, hm.err_ok, hm.count, hm.outValid_iff⟩
    exact ⟨hcount, hablock.trans ha⟩

/-- Of the first m numbers, one in ten has a multiple of ten for its successor. -/
theorem length_filter_tenth {f : Nat → Bool} (h : ∀ j, f j = true ↔ (j + 1) % 10 = 0) (m : Nat) :
    ((List.range m).filter f).length = m / 10 := by
  induction m with
  | zero => rfl
  | succ m ih =>
    rw [List.range_succ, List.filter_append, List.length_append, ih, List.filter_singleton]
    by_cases hm : (m + 1) % 10 = 0
    · rw [(h m).2 hm, cond_true, List.length_singleton]
      omega
    · rw [Bool.eq_false_of_not_eq_true (mt (h m).1 hm), cond_false, List.length_nil]
      omega

/-- Settles O47: CONFIG starts the count, each call adds one to it, and the tenths are the outputs. -/
theorem oneOutputPerTenCalls : Obligations.OneOutputPerTenCalls := by
  intro s t inp inlen ht hok hready
  cases ht
  have hrun := fedRun_counted (t := s.withBlock (runConfig params s.block)) (counted_runConfig hok)
    hready
  refine ⟨fedRun _ inp inlen, rfl, fun m => ?_, fun m => ?_, length_filter_tenth fun j => ?_⟩
  · obtain ⟨hm, ha⟩ := hrun m
    exact (exec_process_counted (callReady_fed (hready m) hm.configured ha) (m := m)
      ⟨hm.configured, hm.err_ok, hm.count, hm.outValid_iff⟩).1
  · obtain ⟨hm, _⟩ := hrun m
    exact ⟨hm.err_ok, hm.count, hm.outValid_iff⟩
  · obtain ⟨hj, _⟩ := hrun (j + 1)
    exact hj.outValid_iff.trans (and_iff_right (Nat.succ_pos j))

end

/-! ## Any commands on written input -/

section
variable {s : State} {i : Instr}

theorem run_succ_of_step {M : Host.Core} {s t : M.State} (h : M.step s = .next t) (n : Nat) :
    M.run (n + 1) s = M.run n t := by
  rw [Host.Core.run, h]

/-- An invariant under which every step answers makes every run safe. -/
theorem safeRun_of_invariant {I : State → Prop} (h : ∀ s, I s → ∃ t, step s = .next t ∧ I t)
    (hs : I s) : SafeRun s := by
  intro n
  induction n generalizing s with
  | zero => exact ⟨s, rfl⟩
  | succ n ih =>
    obtain ⟨t, hstep, ht⟩ := h s hs
    obtain ⟨u, hrun⟩ := ih ht
    exact ⟨u, (run_succ_of_step hstep n).trans hrun⟩

theorem Block.checkedCommand_of_ok {F : Type} {bad : Block F → Bool}
    {effect : Block F → Except Fault (Block F)} {b d : Block F} (h : effect b = .ok d) :
    ∃ b', b.checkedCommand bad effect = .ok b' := by
  rcases Block.checkedCommand_cases bad effect b with ⟨_, e⟩ | ⟨_, _, e⟩ | ⟨_, _, e⟩ <;> rw [e]
  · exact ⟨_, rfl⟩
  · exact ⟨_, rfl⟩
  · rw [h]
    exact ⟨_, rfl⟩

/-- With both rows written every command ends in a next state, a call accepted or not. -/
theorem exec_next_of_written (h : ∀ c, s.block.rowWritten c) (i : Instr) :
    ∃ t, exec i s = .next t := by
  cases i with
  | nop => exact ⟨_, rfl⟩
  | config => exact ⟨_, rfl⟩
  | process =>
    obtain ⟨rows, hrows⟩ := Block.exists_readsRows h
    obtain ⟨b, hb⟩ := Block.checkedCommand_of_ok (bad := Block.processInputBad)
      (processEffect_of_readsRows params hrows)
    exact ⟨s.withBlock b, congrArg s.outcome hb⟩
  | win arg =>
    have hrun : ∃ b, runWin params arg s.block = .ok b := by
      rw [runWin_eq]
      cases channelOf arg with
      | none => exact ⟨_, rfl⟩
      | some c =>
        obtain ⟨row, _, hwin⟩ := winEffect_of_written params (h c)
        exact Block.checkedCommand_of_ok hwin
    obtain ⟨b, hb⟩ := hrun
    exact ⟨s.withBlock b, congrArg s.outcome hb⟩
  | fft arg => exact ⟨_, rfl⟩
  | conj arg => exact ⟨_, rfl⟩
  | cmul arg => exact ⟨_, rfl⟩
  | smooth arg => exact ⟨_, rfl⟩
  | tick => exact ⟨_, rfl⟩

/-- Commands other than CONFIG leave the rows, and how much of them a call needs. -/
theorem Block.Ended.rowWritten {F : Type} {b d : Block F} (h : b.Ended d) {c : Channel}
    (hw : b.rowWritten c) : d.rowWritten c := by
  rcases h with ⟨e, rfl⟩ | ⟨_, d, hk, rfl⟩
  · exact hw
  · intro n hn
    rw [Block.complete_inp, hk.inp]
    exact hw n (hk.blockLen ▸ hn)

/-- No command but CONFIG has a word that decodes to it, an operand out of range included. -/
theorem decode_encode_ne_config (hi : i ≠ .config) : decode (encode i) ≠ .ok .config := by
  intro h
  obtain ⟨hop, harg, hzero⟩ := Laws.EncodedFields.fields_of_parts i.argument i.opcode
  rw [decode, encode, hop, harg, hzero, if_neg (not_not_intro rfl)] at h
  obtain ⟨_, hcode, _⟩ := hasFields_of_decodeOp h
  cases i with
  | config => exact hi rfl
  | nop | process | tick | win | fft | conj | cmul | smooth => simp [Instr.opcode] at hcode

/-- The word of a command other than CONFIG, written to CMD with both rows written. -/
theorem writeCmd_of_written (h : ∀ c, s.block.rowWritten c) (hi : i ≠ .config) :
    ∃ t, s.writeCmd (encode i) = .next t ∧ t.pending = s.pending ∧ ∀ c, t.block.rowWritten c := by
  rw [State.writeCmd]
  cases hd : decode (encode i) with
  | error e => exact ⟨_, rfl, rfl, h⟩
  | ok j =>
    have hj : j ≠ .config := fun hj => decode_encode_ne_config hi (hj ▸ hd)
    obtain ⟨t, ht⟩ := exec_next_of_written h j
    obtain ⟨b, hb, rfl⟩ := exec_ended hj ht
    refine ⟨_, congrArg State.commandEnded ht, rfl, fun c => ?_⟩
    exact hb.rowWritten (h c)

/-- Both rows are written, and the host only wants commands other than CONFIG. -/
def State.Supplied (s : State) : Prop :=
  (∀ c, s.block.rowWritten c) ∧
    ∃ cmds : List Instr, (∀ i ∈ cmds, i ≠ .config) ∧ s.pending = cmds.map commandWrite

theorem State.Supplied.step (h : s.Supplied) : ∃ t, step s = .next t ∧ t.Supplied := by
  obtain ⟨hw, cmds, hcmds, hpending⟩ := h
  cases cmds with
  | nil =>
    refine ⟨s, ?_, hw, [], hcmds, hpending⟩
    rw [Machine.step, State.takeNext, hpending]
    rfl
  | cons i rest =>
    obtain ⟨hi, hrest⟩ := List.forall_mem_cons.1 hcmds
    obtain ⟨t, ht, hleft, hwritten⟩ :=
      writeCmd_of_written (s := { s with pending := rest.map commandWrite }) hw hi
    exact ⟨t, (step_regWrite_cmd hpending).trans ht, hwritten, rest, hrest, hleft⟩

/-- Settles O48: no step takes a row's samples away, and a call that finds them does not stop. -/
theorem writtenInputRunsToTheEnd : Obligations.WrittenInputRunsToTheEnd :=
  fun _ cmds _ h0 h1 hcmds hpending => safeRun_of_invariant (fun _ => State.Supplied.step)
    ⟨forall_channel.2 ⟨h0, h1⟩, cmds, hcmds, hpending⟩

end

end Sys2Proof.Machine
end

section
/-!
SUPPORT. The completion codes (60_exceptions.md R200 to R208): what makes each command fail and with
which code, and what a command that fails leaves.
-/

namespace Sys2Proof.Machine

open Sys2Proof.Claims

variable {α : Type} {b b' : Block B64} {c : Channel} {i : Instr} {e : Completion} {s t : State}

/-- Settles O17: each outcome has its own line of the table, and there is no seventh. -/
theorem completionCodesAreTheTable : Obligations.CompletionCodesAreTheTable := by
  refine ⟨rfl, rfl, rfl, rfl, rfl, rfl, fun e => ?_⟩
  cases e <;> decide

/-! ## The checks of CONFIG -/

theorem Block.configInvalid_iff : b.configInvalid numB64 = true ↔ Claims.configInvalid b := by
  simp only [Block.configInvalid, Claims.configInvalid, numB64_isFinite, numB64_le0, Bool.or_eq_true,
    Bool.not_eq_true', decide_eq_true_eq, or_assoc]

/-- The condition of the capacity check (40_config.md R104). -/
def sizeOutOfRange (b : Block B64) : Prop :=
  b.blocksize.toInt < 2 ∨ 2 ^ Config.log2NfftMax < b.blocksize.toInt

theorem Block.overCapacity_iff : b.overCapacity Config.log2NfftMax = true ↔ sizeOutOfRange b := by
  simp [Block.overCapacity, sizeOutOfRange]

/-- Destroying the estimator and raising a code is what 40_config.md R109 describes. -/
theorem raise_destroy_eq_unbuilt (b : Block B64) (e : Completion) :
    (b.destroy 0#64).raise e = unbuilt b e := rfl

theorem runConfig_of_configInvalid (h : configInvalid b) :
    runConfig params b = unbuilt b .configurationError := by
  rw [runConfig_eq, params_num, if_pos (Block.configInvalid_iff.2 h), numB64_zero,
    raise_destroy_eq_unbuilt]

theorem runConfig_of_sizeOutOfRange (hvalid : ¬configInvalid b) (h : sizeOutOfRange b) :
    runConfig params b = unbuilt b .capacityError := by
  rw [runConfig_eq, params_num, if_neg (mt Block.configInvalid_iff.1 hvalid), params_log2NfftMax,
    if_pos (Block.overCapacity_iff.2 h), numB64_zero, raise_destroy_eq_unbuilt]

theorem runConfig_err_of_accepted (hvalid : ¬configInvalid b) (hsize : ¬sizeOutOfRange b) :
    (runConfig params b).err = .ok := by
  rw [runConfig_eq, params_num, if_neg (mt Block.configInvalid_iff.1 hvalid), params_log2NfftMax,
    if_neg (mt Block.overCapacity_iff.1 hsize)]
  rfl

/-! ## What raises a code and what it leaves -/

/-- `b.Raises i e`: command i, run on b, ends with the error e (60_exceptions.md R201 to R205). -/
inductive Block.Raises (b : Block B64) : Instr → Completion → Prop
  | configuration (h : Claims.configInvalid b) : Raises b .config .configurationError
  | capacity (hvalid : ¬Claims.configInvalid b) (h : sizeOutOfRange b) :
      Raises b .config .capacityError
  | processInput (hc : b.configured = true) (h : b.processInputBad = true) :
      Raises b .process .invalidInput
  | winInput (c : Channel) (hc : b.configured = true) (h : b.winInputBad c = true) :
      Raises b (.win (chanArg c)) .invalidInput
  | notConfigured {i : Instr} (hi : i ≠ .config) (hc : b.configured = false) :
      Raises b i .notConfigured
  | illegal {i : Instr} (h : i.wellFormed = false) : Raises b i .illegalCommand

/-- The block that command i leaves when it ends with the error e (60_exceptions.md R208). -/
def Block.failed (b : Block B64) (i : Instr) (e : Completion) : Block B64 :=
  if i = .config then unbuilt b e else b.raise e

@[simp] theorem Block.failed_config (b : Block B64) (e : Completion) :
    b.failed .config e = unbuilt b e := if_pos rfl

theorem Block.failed_of_ne (hi : i ≠ .config) (e : Completion) : b.failed i e = b.raise e :=
  if_neg hi

@[simp] theorem Block.failed_err (b : Block B64) (i : Instr) (e : Completion) :
    (b.failed i e).err = e := by
  unfold Block.failed
  split <;> rfl

/-- Command i, run on b, has ended on b': with the code OK, or with an error that it raises and the
block of that error. -/
def Block.Concludes (b : Block B64) (i : Instr) (b' : Block B64) : Prop :=
  b'.err = .ok ∨ ∃ e, b.Raises i e ∧ b' = b.failed i e

theorem Block.Raises.concludes (hi : i ≠ .config) (h : b.Raises i e) :
    b.Concludes i (b.raise e) := .inr ⟨e, h, (Block.failed_of_ne hi e).symm⟩

theorem Block.concludes_command (hi : i ≠ .config) (effect : Block B64 → Block B64) :
    b.Concludes i (b.command effect) := by
  rcases Block.command_cases effect b with ⟨hc, e⟩ | ⟨_, e⟩ <;> rw [e]
  · exact (Block.Raises.notConfigured hi hc).concludes hi
  · exact .inl rfl

theorem Block.concludes_checkedCommand {bad : Block B64 → Bool}
    {effect : Block B64 → Except Fault (Block B64)} (hi : i ≠ .config)
    (hbad : b.configured = true → bad b = true → b.Raises i .invalidInput)
    (h : b.checkedCommand bad effect = .ok b') : b.Concludes i b' := by
  rcases Block.checkedCommand_cases bad effect b with ⟨hc, e⟩ | ⟨hc, hb, e⟩ | ⟨_, _, e⟩ <;>
    rw [e] at h
  · cases h
    exact (Block.Raises.notConfigured hi hc).concludes hi
  · cases h
    exact (hbad hc hb).concludes hi
  · cases hd : effect b with
    | error f => rw [hd] at h; cases h
    | ok d =>
      rw [hd] at h
      cases h
      exact .inl rfl

/-- An operand that names nothing is out of range, and otherwise the command runs. -/
theorem Block.concludes_operand {effect : α → Block B64 → Block B64} {operand : Option α}
    (hi : i ≠ .config) (ho : operand = none → i.wellFormed = false) :
    b.Concludes i (operand.elim (b.raise .illegalCommand) fun a => b.command (effect a)) := by
  cases operand with
  | none => exact (Block.Raises.illegal (ho rfl)).concludes hi
  | some a => exact Block.concludes_command hi (effect a)

theorem outOfRange_of_channelOf {arg : BitVec 8} (h : channelOf arg = none) :
    decide (arg.toNat < 2) = false :=
  decide_eq_false fun hlt => Option.isSome_iff_ne_none.1 ((channelOf_isSome arg).2 hlt) h

theorem outOfRange_of_spectrumOf {arg : BitVec 8} (h : spectrumOf arg = none) :
    decide (arg.toNat < 3) = false :=
  decide_eq_false fun hlt => Option.isSome_iff_ne_none.1 ((spectrumOf_isSome arg).2 hlt) h

theorem runWin_concludes {arg : BitVec 8} (h : runWin params arg b = .ok b') :
    b.Concludes (.win arg) b' := by
  rw [runWin_eq] at h
  cases hc : channelOf arg with
  | none =>
    rw [hc] at h
    cases h
    exact (Block.Raises.illegal (i := .win arg) (outOfRange_of_channelOf hc)).concludes nofun
  | some c =>
    rw [hc] at h
    obtain rfl := eq_chanArg_of_channelOf hc
    exact Block.concludes_checkedCommand nofun (.winInput c) h

theorem runConfig_concludes (b : Block B64) : b.Concludes .config (runConfig params b) := by
  by_cases hinvalid : configInvalid b
  · refine .inr ⟨_, .configuration hinvalid, ?_⟩
    rw [runConfig_of_configInvalid hinvalid, Block.failed_config]
  · by_cases hsize : sizeOutOfRange b
    · refine .inr ⟨_, .capacity hinvalid hsize, ?_⟩
      rw [runConfig_of_sizeOutOfRange hinvalid hsize, Block.failed_config]
    · exact .inl (runConfig_err_of_accepted hinvalid hsize)

/-- How any command that answers a next state has ended. -/
theorem exec_concludes (h : exec i s = .next t) :
    ∃ b, s.block.Concludes i b ∧ t = s.withBlock b := by
  cases i with
  | nop =>
    cases h
    exact ⟨_, .inl rfl, rfl⟩
  | config =>
    cases h
    exact ⟨_, runConfig_concludes _, rfl⟩
  | process =>
    obtain ⟨b, hb, rfl⟩ := State.outcome_next h
    exact ⟨b, Block.concludes_checkedCommand nofun .processInput hb, rfl⟩
  | win arg =>
    obtain ⟨b, hb, rfl⟩ := State.outcome_next h
    exact ⟨b, runWin_concludes hb, rfl⟩
  | fft arg =>
    cases h
    exact ⟨_, runFft_eq params arg _ ▸
      Block.concludes_operand nofun outOfRange_of_channelOf, rfl⟩
  | conj arg =>
    cases h
    exact ⟨_, runConj_eq params arg _ ▸
      Block.concludes_operand nofun outOfRange_of_channelOf, rfl⟩
  | cmul arg =>
    cases h
    exact ⟨_, runCmul_eq params arg _ ▸
      Block.concludes_operand nofun outOfRange_of_spectrumOf, rfl⟩
  | smooth arg =>
    cases h
    exact ⟨_, runSmooth_eq params arg _ ▸
      Block.concludes_operand nofun outOfRange_of_spectrumOf, rfl⟩
  | tick =>
    cases h
    exact ⟨_, Block.concludes_command (i := .tick) nofun _, rfl⟩

/-- A command that ends with an error had its reason, and its state is the one of that error. -/
theorem exec_raises (h : exec i s = .next t) (herr : t.block.err ≠ .ok) :
    s.block.Raises i t.block.err ∧ t = s.withBlock (s.block.failed i t.block.err) := by
  obtain ⟨b, hb, rfl⟩ := exec_concludes h
  rcases hb with hok | ⟨e, hraise, rfl⟩
  · exact absurd hok herr
  · rw [State.withBlock_block, Block.failed_err]
    exact ⟨hraise, rfl⟩

theorem exec_raises_of_err (h : exec i s = .next t) (herr : t.block.err = e) (he : e ≠ .ok) :
    s.block.Raises i e := by
  subst herr
  exact (exec_raises h he).1

/-! ## ConfigurationError and CapacityError -/

/-- Settles O20: the destroyed block with the code is the one of 40_config.md R109, and no other
command has this code among its errors. -/
theorem configurationErrorLeavesNoEstimator : Obligations.ConfigurationErrorLeavesNoEstimator := by
  refine ⟨fun s h => ?_, fun i s t h herr => ?_, rfl⟩
  · rw [exec_config, runConfig_of_configInvalid h]
    rfl
  · cases exec_raises_of_err h herr nofun with
    | configuration hinvalid => exact ⟨rfl, hinvalid⟩

/-- Settles O21: as for ConfigurationError, once its checks have passed. -/
theorem capacityErrorLeavesNoEstimator : Obligations.CapacityErrorLeavesNoEstimator := by
  refine ⟨fun s hvalid hsize => ?_, fun i s t h herr => ?_, rfl⟩
  · rw [exec_config, runConfig_of_sizeOutOfRange hvalid hsize]
    rfl
  · cases exec_raises_of_err h herr nofun with
    | capacity hvalid hsize => exact ⟨rfl, hvalid, hsize⟩

/-! ## InvalidInput -/

theorem Block.checkedCommand_of_rejected {bad : Block B64 → Bool}
    {effect : Block B64 → Except Fault (Block B64)} (hc : b.configured = true)
    (hbad : bad b = true) : b.checkedCommand bad effect = .ok (b.raise .invalidInput) := by
  simp [Block.checkedCommand, hc, hbad]

theorem exec_process_of_rejected (hc : s.block.configured = true)
    (hbad : s.block.processInputBad = true) :
    exec .process s = .next (s.withBlock (s.block.raise .invalidInput)) :=
  congrArg s.outcome (Block.checkedCommand_of_rejected hc hbad)

theorem exec_win_of_rejected (hc : s.block.configured = true)
    (hbad : s.block.winInputBad c = true) :
    exec (.win (chanArg c)) s = .next (s.withBlock (s.block.raise .invalidInput)) := by
  rw [exec, execWin, runWin_eq, chanArg, channelOf_number, Option.elim_some,
    Block.checkedCommand_of_rejected hc hbad]
  rfl

theorem chanArg_injective : Function.Injective chanArg := fun c d h => by
  have hname : some c = some d := by
    rw [← channelOf_number c, ← channelOf_number d]
    exact congrArg channelOf h
  exact Option.some.inj hname

/-- Settles O19: the check of each of the two commands is the stated condition, and only they have
this code among their errors. -/
theorem invalidInputChangesOnlyTheCode : Obligations.InvalidInputChangesOnlyTheCode := by
  refine ⟨fun s hc h => exec_process_of_rejected hc (Block.processInputBad_eq_true_iff.2 h),
    fun s c hc h => exec_win_of_rejected hc (Block.winInputBad_eq_true_iff.2 h),
    fun i s t h herr => ?_, rfl⟩
  cases exec_raises_of_err h herr nofun with
  | processInput hc hbad =>
    exact ⟨hc, .inl rfl, fun _ => Block.processInputBad_eq_true_iff.1 hbad, nofun⟩
  | winInput c hc hbad =>
    refine ⟨hc, .inr ⟨c, rfl⟩, nofun, fun d hd => ?_⟩
    obtain rfl := chanArg_injective (Instr.win.inj hd)
    exact Block.winInputBad_eq_true_iff.1 hbad

/-! ## No partial effect -/

/-- Settles O22: what a failed command leaves holds its code and nothing else of it, and the step
that writes CMD answers Ok however the command ended. -/
theorem failedCommandHasNoPartialEffect : Obligations.FailedCommandHasNoPartialEffect := by
  refine ⟨fun i s t h herr => ?_, fun s t w rest hs ht => ?_, fun s w e rest hs hd => ?_⟩
  · obtain ⟨_, ht⟩ := exec_raises h herr
    refine ⟨fun hi => ?_, fun hi => ?_⟩
    · rwa [Block.failed_of_ne hi] at ht
    · rwa [hi, Block.failed_config] at ht
  · rw [step_regWrite_cmd hs] at ht
    exact State.writeCmd_response ht
  · rw [step_regWrite_cmd hs, State.writeCmd_of_wordIllegal _ (wordIllegal_of_decode_error hd)]

end Sys2Proof.Machine
end

section
/-!
SUPPORT. Where the machine stops (60_exceptions.md R208, 41_window.md R122 (d)): every transaction
answers but a command word whose command lacks a sample, and with nothing pending nothing changes
(R216).
-/

namespace Sys2Proof.Machine

open Sys2Proof.Claims

variable {F : Type} {b : Block F} {c : Channel} {i : Instr}

/-- Settles O8: without an event to take, the step is the identity. -/
theorem idleBlockKeepsItsState : Obligations.IdleBlockKeepsItsState := by
  intro s h
  rw [step, State.takeNext, h]

/-! ## Commands -/

/-- Command i, run on b, stops for want of sample n of channel c. -/
structure Block.StopsAt (b : Block F) (i : Instr) (c : Channel) (n : Nat) : Prop where
  command : i = .process ∨ i = .win (chanArg c)
  configured : b.configured = true
  needed : n < b.blockLen
  unwritten : memRead (b.inp.get c) n = none

/-- The outcome is a next state or a fault at a sample that command i needs. -/
def State.Stops (s : State) (i : Instr) (o : Host.Outcome State Fault Refusal) : Prop :=
  (∃ t, o = .next t) ∨ ∃ c n, s.block.StopsAt i c n ∧ o = .fault (.unwrittenInput c n)

/-- A command with an input check whose effect faults only at a sample missing from its row. -/
theorem State.stops_checkedCommand {s : State} {bad : Block B64 → Bool}
    {effect : Block B64 → Except Fault (Block B64)}
    (h : ∀ f, effect s.block = .error f → ∃ c n, (i = .process ∨ i = .win (chanArg c)) ∧
      readRow (s.block.inp.get c) s.block.blockLen 0 = .error n ∧ f = .unwrittenInput c n) :
    s.Stops i (s.outcome (s.block.checkedCommand bad effect)) := by
  rcases Block.checkedCommand_cases bad effect s.block with ⟨_, e⟩ | ⟨_, _, e⟩ | ⟨hc, _, e⟩ <;>
    rw [e]
  · exact .inl ⟨_, rfl⟩
  · exact .inl ⟨_, rfl⟩
  · cases hd : effect s.block with
    | ok d => exact .inl ⟨_, rfl⟩
    | error f =>
      obtain ⟨c, n, hi, hrow, rfl⟩ := h f hd
      obtain ⟨_, hn, hnone, _⟩ := readRow_error hrow
      exact .inr ⟨c, n, ⟨hi, hc, by omega, hnone⟩, rfl⟩

theorem winEffect_error {p : Params F} {f : Fault} (h : winEffect p c b = .error f) :
    ∃ n, readRow (b.inp.get c) b.blockLen 0 = .error n ∧ f = .unwrittenInput c n := by
  rcases winEffect_cases p c b with ⟨_, _, e⟩ | ⟨n, hrow, e⟩ <;> rw [e] at h <;> cases h
  exact ⟨n, hrow, rfl⟩

theorem processEffect_error {p : Params F} {f : Fault} (h : processEffect p b = .error f) :
    ∃ c n, readRow (b.inp.get c) b.blockLen 0 = .error n ∧ f = .unwrittenInput c n := by
  rcases processEffect_cases p b with ⟨_, _, _, _, e⟩ | ⟨c, n, hrow, e⟩ <;> rw [e] at h <;> cases h
  exact ⟨c, n, hrow, rfl⟩

/-- Only WIN and PROCESS can stop, and only at a sample they need. -/
theorem exec_stops (i : Instr) (s : State) : s.Stops i (exec i s) := by
  cases i with
  | nop | config | fft | conj | cmul | smooth | tick => exact .inl ⟨_, rfl⟩
  | process =>
    refine State.stops_checkedCommand fun f hf => ?_
    obtain ⟨c, n, hrow, rfl⟩ := processEffect_error hf
    exact ⟨c, n, .inl rfl, hrow, rfl⟩
  | win arg =>
    rw [exec, execWin, runWin_eq]
    cases hc : channelOf arg with
    | none => exact .inl ⟨_, rfl⟩
    | some c =>
      obtain rfl := eq_chanArg_of_channelOf hc
      refine State.stops_checkedCommand fun f hf => ?_
      obtain ⟨n, hrow, rfl⟩ := winEffect_error hf
      exact ⟨c, n, .inr rfl, hrow, rfl⟩

/-! ## Transactions -/

theorem State.writeCmd_stops (s : State) (w : W32) :
    (∃ t, s.writeCmd w = .next t) ∨
    ∃ i c n, decode w = .ok i ∧ s.block.StopsAt i c n ∧
      s.writeCmd w = .fault (.unwrittenInput c n) := by
  cases hd : decode w with
  | error e => exact .inl ⟨_, s.writeCmd_of_wordIllegal (wordIllegal_of_decode_error hd)⟩
  | ok i =>
    rw [s.writeCmd_of_decode_ok hd]
    rcases exec_stops i s with ⟨t, ht⟩ | ⟨c, n, hstop, hf⟩
    · exact .inl ⟨_, by rw [ht]; rfl⟩
    · exact .inr ⟨i, c, n, rfl, hstop, by rw [hf]; rfl⟩

/-- Every event but a word written to CMD is answered at once. -/
theorem State.takeEvent_next_or_cmd (s : State) (e : HostEvent B64) :
    (∃ t, s.takeEvent e = .next t) ∨ ∃ w, e = .regWrite 0 (.word w) := by
  cases e with
  | regRead n => exact .inl ⟨_, rfl⟩
  | memRead n i => exact .inl ⟨_, rfl⟩
  | memWrite n i v => exact .inl ⟨_, rfl⟩
  | reset => exact .inl ⟨_, rfl⟩
  | regWrite n v =>
    rw [State.takeEvent]
    cases hr : regOfNumber n with
    | none => exact .inl ⟨_, rfl⟩
    | some r =>
      by_cases hv : r = .cmd → isNum v
      · exact .inl ⟨_, State.regWrite_eq_store hv⟩
      · obtain ⟨rfl, hword⟩ := Classical.not_imp.1 hv
        obtain rfl := regOfNumber_cmd hr
        cases v with
        | num x => exact absurd trivial hword
        | word w => exact .inr ⟨w, rfl⟩

/-- Everything a step can end with. -/
theorem step_next_or_stops (s : State) :
    (∃ t, step s = .next t) ∨
    ∃ w rest i c n, s.pending = .regWrite 0 (.word w) :: rest ∧ decode w = .ok i ∧
      s.block.StopsAt i c n ∧ step s = .fault (.unwrittenInput c n) := by
  cases hs : s.pending with
  | nil => exact .inl ⟨s, idleBlockKeepsItsState s hs⟩
  | cons e rest =>
    rw [step_of_pending hs]
    rcases State.takeEvent_next_or_cmd { s with pending := rest } e with hnext | ⟨w, rfl⟩
    · exact .inl hnext
    · rcases State.writeCmd_stops { s with pending := rest } w with
        hnext | ⟨i, c, n, hd, hstop, hf⟩
      · exact .inl hnext
      · exact .inr ⟨w, rest, i, c, n, rfl, hd, hstop, hf⟩

/-- Settles O24: a step that is not answered stops at a sample of the command it runs. -/
theorem machineStopsOnlyAtAnUnwrittenSample : Obligations.MachineStopsOnlyAtAnUnwrittenSample := by
  intro s
  rcases step_next_or_stops s with ⟨t, ht⟩ | ⟨w, rest, i, c, n, hs, hd, hstop, hf⟩
  · rw [ht]
    exact ⟨nofun, nofun⟩
  · rw [hf]
    have hword : decode w = .ok .process ∨ decode w = .ok (.win (chanArg c)) :=
      hstop.command.imp (fun hi => hd.trans (congrArg _ hi)) fun hi => hd.trans (congrArg _ hi)
    exact ⟨nofun, fun f hfault => ⟨c, n, w, rest, (Host.Outcome.fault.inj hfault).symm, hs, hword,
      hstop.configured, hstop.needed, hstop.unwritten⟩⟩

end Sys2Proof.Machine
end

section
/-!
SUPPORT. Reset and hazards (70_reset_and_hazards.md): the block a reset pulse leaves (R220), and the
NaN that smoothing cannot remove from the accumulator (R234, 44_smooth.md R153).
-/

namespace Sys2Proof.Machine

open Sys2Proof.Claims

variable {b d : Block B64} {c : Instr} {j k : Spectrum} {i : Nat}

/-! ## The reset pulse -/

theorem statusWord_reset : (Block.reset (0#64 : B64)).statusWord = 0#32 := by decide

theorem bankElems_reset {n : Nat} {l : List B64}
    (h : bankElems (Block.reset 0#64) n = some l) : l = [] := by
  unfold bankElems at h
  split at h <;> cases h <;> rfl

theorem memRead_reset (c : Channel) (i : Nat) :
    memRead ((Block.reset (0#64 : B64)).inp.get c) i = none := by cases c <;> rfl

/-- Settles O16: the pulse replaces the block by the reset block. -/
theorem resetPulseLeavesTheResetState : Obligations.ResetPulseLeavesTheResetState := by
  intro s rest h
  exact ⟨_, step_of_pending h, rfl, rfl, statusWord_reset, rfl, rfl, rfl, rfl, rfl, rfl, rfl, rfl,
    rfl, rfl, rfl, rfl, rfl, rfl, fun _ _ => bankElems_reset, memRead_reset⟩

/-! ## NaN in, NaN out -/

theorem f64IsNaN_mul_right (x : B64) {y : B64} (h : f64IsNaN y = true) :
    f64IsNaN (f64Mul x y) = true := by
  rw [f64Mul, if_pos (by rw [h, Bool.or_true])]
  exact f64IsNaN_nan _ _ _

theorem f64IsNaN_add_left {x : B64} (y : B64) (h : f64IsNaN x = true) :
    f64IsNaN (f64Add x y) = true := by
  rw [f64Add, if_pos (by rw [h, Bool.true_or])]
  exact f64IsNaN_nan _ _ _

/-- The old value goes through one product and one sum, whatever alpha is (44_smooth.md R153). -/
theorem f64IsNaN_smoothElem (alpha input : B64) {old : B64} (h : f64IsNaN old = true) :
    f64IsNaN (smoothElem numB64 alpha old input) = true :=
  f64IsNaN_add_left _ (f64IsNaN_mul_right alpha h)

/-! ## The accumulator -/

/-- Element i of ACCk is a NaN. -/
def Block.NanAt (b : Block B64) (k : Spectrum) (i : Nat) : Prop :=
  ∃ v, (b.acc.get k)[i]? = some v ∧ f64IsNaN v = true

theorem Block.NanAt.of_acc_eq (h : b.NanAt k i) (hacc : d.acc = b.acc) : d.NanAt k i := by
  rwa [Block.NanAt, hacc]

/-- SMOOTH j writes a NaN back as a NaN, and leaves the other banks. -/
theorem Block.NanAt.smooth (h : b.NanAt k i) (j : Spectrum) :
    (smoothEffect params j b).NanAt k i := by
  obtain ⟨v, hv, hnan⟩ := h
  rw [Block.NanAt, smoothEffect, Block.setAcc_acc]
  by_cases hk : k = j
  · subst hk
    have hold : elem numB64 (b.acc.get k) i = v := by
      simp [elem, List.getD_eq_getElem?_getD, hv]
    rw [PerSpectrum.get_set_same, storeElems_getElem?, hv, params_num, hold]
    refine ⟨_, rfl, ?_⟩
    split_ifs
    · exact f64IsNaN_smoothElem _ _ hnan
    · exact hnan
  · rw [PerSpectrum.get_set_other _ _ hk]
    exact ⟨v, hv, hnan⟩

/-- Of the steps of a call only the three SMOOTHs write the accumulator. -/
theorem Block.NanAt.spectral (h : b.NanAt k i) : (spectralSteps params b).NanAt k i := by
  have hinput : (cmulStep params (conjStep params (fftStep params b))).NanAt k i :=
    h.of_acc_eq (by simp)
  exact ((hinput.smooth .cross).smooth .auto0).smooth .auto1

theorem Block.Runs.nanAt (hrun : b.Runs params c d) (hc : c ≠ .config) (h : b.NanAt k i) :
    d.NanAt k i := by
  cases hrun with
  | destroy | construct => exact absurd rfl hc
  | nothing | win | fft | conj | cmul => exact h
  | smooth j => exact h.smooth j
  | tick => exact h.of_acc_eq (tickEffect_acc ..)
  | @process row0 row1 =>
    have hwindowed : ((b.windowRow params.num .ch0 row0).windowRow params.num .ch1 row1).NanAt k i :=
      h
    exact hwindowed.spectral.of_acc_eq (tickEffect_acc ..)

/-- Settles O42: what a command runs keeps the NaN, and its code is not in the accumulator. -/
theorem nanStaysInTheAccumulator : Obligations.NanStaysInTheAccumulator := by
  intro c s t k i v hc hv hnan h
  obtain ⟨_, ⟨d, e, hrun, rfl⟩, rfl⟩ := exec_leaves h
  exact hrun.nanAt hc ⟨v, hv, hnan⟩

end Sys2Proof.Machine
end
